-- ==== Sys2Proof/Word.lean ====
section
/-! DEFINITION. The word types of PFP-CORE (spec/00_scope.md rule R8: every value is an unsigned
integer of a stated width, bit 0 the least significant). -/

namespace Sys2Proof

/-- One byte of the frame buffer (rule R60). -/
abbrev Byte := BitVec 8

/-- A 16-bit value: an address, an offset, a length, a checksum. -/
abbrev Half := BitVec 16

/-- A 32-bit value: a register as the host sees it, a command word, an IPv4 address. -/
abbrev Word := BitVec 32

/-- A 6-bit register number (rule R21). -/
abbrev RegNum := BitVec 6

end Sys2Proof
end

