-- ==== Sys2Proof/Syntax.lean ====
section
/-! DEFINITION. The nine commands (spec/30_encoding.md rule R91), one constructor per row of
spec/opcode_table.json, and the fields of a command word (rule R90). -/

namespace Sys2Proof

/-- A command of PFP-CORE (rule R91). The only operands a command word carries are the two flag bits
of PATCH (rule R93). -/
inductive Instr where
  /-- NOP, rule R150. -/
  | nop
  /-- CLR, rule R151. -/
  | clr
  /-- PARSE, rule R152. -/
  | parse
  /-- PARSEC, rule R153. -/
  | parsec
  /-- CKSUM, rule R178. -/
  | cksum
  /-- VERIFY, rule R179. -/
  | verify
  /-- CSUMR, rule R180. -/
  | csumr
  /-- VERIFYR, rule R181. -/
  | verifyr
  /-- PATCH, rule R200: `c` is the C flag (patch the checksum field), `l` the L flag (patch
  total_length). -/
  | patch (c l : Bool)
deriving DecidableEq, Repr

/-- The fields of a command word, format C (rule R90). -/
structure CommandFields where
  /-- OPC, bits [7:0]. -/
  opc : BitVec 8
  /-- C, bit [8]. -/
  c : Bool
  /-- L, bit [9]. -/
  l : Bool
  /-- bits [15:10], which must be 0. -/
  zeroLow : BitVec 6
  /-- bits [31:16], which must be 0. -/
  zeroHigh : BitVec 16
deriving DecidableEq, Repr

/-- The operation code of a command (rule R91). -/
def Instr.opc : Instr → BitVec 8
  | .nop => 0x00#8
  | .clr => 0x01#8
  | .parse => 0x10#8
  | .parsec => 0x11#8
  | .cksum => 0x20#8
  | .verify => 0x21#8
  | .csumr => 0x22#8
  | .verifyr => 0x23#8
  | .patch _ _ => 0x30#8

/-- The command-word fields of a command: the flag bits are PATCH's, and 0 in every other command
(rule R90). -/
def Instr.fields (i : Instr) : CommandFields where
  opc := i.opc
  c := match i with
    | .patch c _ => c
    | .nop | .clr | .parse | .parsec | .cksum | .verify | .csumr | .verifyr => false
  l := match i with
    | .patch _ l => l
    | .nop | .clr | .parse | .parsec | .cksum | .verify | .csumr | .verifyr => false
  zeroLow := 0#6
  zeroHigh := 0#16

end Sys2Proof
end

