-- ==== Sys2Proof/WellFormed.lean ====
section
/-! DEFINITION. When the fields of a command word are legal (spec/30_encoding.md rule R94), one check
per clause of the rule, and when a command is well-formed. -/

namespace Sys2Proof

namespace CommandFields

/-- Rule R94, first clause: w[31:16] = 0. -/
def highClear (f : CommandFields) : Bool := f.zeroHigh == 0#16

/-- Rule R94, second clause: w[15:10] = 0. -/
def lowClear (f : CommandFields) : Bool := f.zeroLow == 0#6

/-- Rule R94, third clause: w[7:0] is one of the nine assigned operation codes. -/
def opcAssigned (f : CommandFields) : Bool :=
  [0x00#8, 0x01#8, 0x10#8, 0x11#8, 0x20#8, 0x21#8, 0x22#8, 0x23#8, 0x30#8].contains f.opc

/-- Rule R94, fourth clause: w[7:0] = 0x30 or w[9:8] = 0. -/
def flagsAllowed (f : CommandFields) : Bool := f.opc == 0x30#8 || (!f.c && !f.l)

/-- `Legal` of rule R94 on the fields of a word. -/
def legal (f : CommandFields) : Bool :=
  f.highClear && f.lowClear && f.opcAssigned && f.flagsAllowed

end CommandFields

/-- A command is well-formed when the fields of its command word are legal. -/
abbrev Instr.WellFormed (i : Instr) : Prop := i.fields.legal = true

end Sys2Proof
end

