-- ==== Sys2Proof/Decode.lean ====
section
/-! DEFINITION. The command decoder (spec/30_encoding.md rules R90 to R94), total on all 2^32 words,
rejecting an illegal word by the name of the clause of rule R94 it breaks, and the encoder after it. -/

namespace Sys2Proof

/-- Which clause of rule R94 an illegal command word breaks, the first that fails. All four raise
IllegalCmd (rule R214): the hardware does not tell them apart. -/
inductive IllegalWord where
  /-- a bit of w[31:16] is set. -/
  | highBits
  /-- a bit of w[15:10] is set. -/
  | lowBits
  /-- w[7:0] is one of the 247 unassigned operation codes. -/
  | unassignedOpc
  /-- w[8] or w[9] is set in a command other than PATCH. -/
  | flagWithoutPatch
deriving DecidableEq, Repr

/-- The fields of a command word (rule R90). -/
def fieldsOf (w : Word) : CommandFields where
  opc := w.extractLsb' 0 8
  c := w.getLsbD 8
  l := w.getLsbD 9
  zeroLow := w.extractLsb' 10 6
  zeroHigh := w.extractLsb' 16 16

/-- The opcode map of rule R91 on the fields of a word whose zero fields are 0: an unassigned code, or
a flag on a command other than PATCH, is illegal (rule R94). -/
def decodeFields (f : CommandFields) : Except IllegalWord Instr :=
  let plain (i : Instr) : Except IllegalWord Instr :=
    if f.c || f.l then .error .flagWithoutPatch else .ok i
  if f.opc = 0x00#8 then plain .nop
  else if f.opc = 0x01#8 then plain .clr
  else if f.opc = 0x10#8 then plain .parse
  else if f.opc = 0x11#8 then plain .parsec
  else if f.opc = 0x20#8 then plain .cksum
  else if f.opc = 0x21#8 then plain .verify
  else if f.opc = 0x22#8 then plain .csumr
  else if f.opc = 0x23#8 then plain .verifyr
  else if f.opc = 0x30#8 then .ok (.patch f.c f.l)
  else .error .unassignedOpc

/-- The decoder (rules R92, R94): "`Legal` is tested before anything else". -/
def decode (w : Word) : Except IllegalWord Instr :=
  let f := fieldsOf w
  if f.zeroHigh ≠ 0#16 then .error .highBits
  else if f.zeroLow ≠ 0#6 then .error .lowBits
  else decodeFields f

/-- The command word with given fields (rule R90), most significant field first. -/
def wordOf (f : CommandFields) : Word :=
  f.zeroHigh ++ f.zeroLow ++ BitVec.ofBool f.l ++ BitVec.ofBool f.c ++ f.opc

/-- The encoder: the command word of a command (rules R90, R91). -/
def encode (i : Instr) : Word := wordOf i.fields

/-- What the decoder reads from an instruction of `nbits` bits whose bits are `w` (bit 0 the least
significant bit of the command word): bits at and above `nbits` are 0, and a value that is no 32-bit
word is no command. -/
def decodeTableWord (nbits w : Nat) : Option Instr :=
  let v := w % 2 ^ nbits
  if v < 2 ^ 32 then
    match decode (BitVec.ofNat 32 v) with
    | .ok i => some i
    | .error _ => none
  else none

end Sys2Proof
end

