-- ==== Sys2Proof/Config.lean ====
section
/-! DEFINITION. What one implementation of PFP-CORE fixes (spec/00_scope.md rules R6, R7) and the one
free value of the model (spec/93_implementation_defined.md U1). -/

namespace Sys2Proof

/-- The implementation parameter of rule R6, "A model takes it as an argument". It is a field of the
machine's state that no step changes, so a statement about every state holds for every capacity. -/
structure Config where
  /-- FB_BYTES, the capacity of the frame buffer in bytes. -/
  fbBytes : Nat
deriving DecidableEq, Repr

namespace Config

/-- The range rule R6 gives the parameter: 1 ≤ FB_BYTES ≤ 65535. -/
abbrev Valid (c : Config) : Prop := 1 ≤ c.fbBytes ∧ c.fbBytes ≤ 65535

/-- The capacity of every example of spec/95_test_vectors.md (rule R6), taken for `State.reset`.
DESIGN CHOICE, log entry 1. -/
def examples : Config := { fbBytes := 2048 }

/-- FREE VALUE (log entry 2): the byte that address `a` of the frame buffer of block `block` holds when
nothing has written it since the `epoch`-th reset. Rule R41: "A model takes the content of FB after reset
as an arbitrary array that stays fixed until written". It has no body, so nothing can be proved of it.
DESIGN CHOICE, unsafe (log entry 10): the array is a function of the block and of the count of its resets
alone. So two states with the same block number and the same count read equal unwritten bytes, of whatever
capacity and whatever FB held before; the spec relates neither two instances (rules R79, R229) nor FB after
a reset to anything (rule R240). Two instances of one system carry different block numbers. -/
opaque unwrittenByte (block epoch a : Nat) : Byte

end Config

/-! The constants of rule R7. -/

/-- ETH_HLEN, the bytes of the Ethernet header. -/
def ethHlen : Nat := 14

/-- ETHERTYPE_IPV4, the ethertype that selects Layer3 = Ipv4. -/
def ethertypeIpv4 : Half := 0x0800#16

/-- MIN_HLEN, the bytes of the fixed part of an IPv4 header and of a TCP header. -/
def minHlen : Nat := 20

/-- UDP_HLEN, the bytes of the UDP header. -/
def udpHlen : Nat := 8

/-- PROTO_TCP, the IPv4 protocol number of TCP. -/
def protoTcp : Byte := 6#8

/-- PROTO_UDP, the IPv4 protocol number of UDP. -/
def protoUdp : Byte := 17#8

/-- CSUM_OFF_TCP, the byte offset of the checksum field in a TCP header. -/
def csumOffTcp : Nat := 16

/-- CSUM_OFF_UDP, the byte offset of the checksum field in a UDP header. -/
def csumOffUdp : Nat := 6

/-- TLEN_OFF, the frame byte offset of the IPv4 total_length field. -/
def tlenOff : Nat := 16

end Sys2Proof
end

