-- ==== Sys2Proof/Machine/State.lean ====
section
/-! DEFINITION. The state of PFP-CORE (spec/10_state.md rule R20), as plain data, the host's side of
the interface (spec/20_memory.md rules R69, R70, R80), and the state after reset (rule R45). -/

namespace Sys2Proof.Machine

/-! ## The values of the STATUS fields (rule R24) -/

/-- STATUS.ERR: the values 6 and 7 "are never produced", so there is no constructor for them. -/
inductive ErrCode where
  | ok
  | truncated
  | malformedLength
  | unsupportedProtocol
  | illegalCmd
  | noView
deriving DecidableEq, Repr

/-- STATUS.STAGE: the structure that was being processed (rule R217). -/
inductive Stage where
  | none
  | eth
  | ipv4
  | tcp
  | udp
  | seg
deriving DecidableEq, Repr

/-- STATUS.VIEW: which composite view is held. -/
inductive View where
  | none
  | decoded
  | checksum
deriving DecidableEq, Repr

/-- STATUS.L3TAG (rule R95). -/
inductive L3Tag where
  | unknown
  | ipv4
deriving DecidableEq, Repr

/-- STATUS.L4TAG (rule R95). -/
inductive L4Tag where
  | unknown
  | tcp
  | udp
deriving DecidableEq, Repr

/-- The STATUS register by its fields (rule R24). No transaction writes it as a word and its reserved
bits read 0, so the fields are the whole of it; `Status.toWord` is the word the host reads. -/
structure Status where
  err : ErrCode
  stage : Stage
  view : View
  l3tag : L3Tag
  l4tag : L4Tag
  /-- CSUM holds the checksum the most recent command computed. -/
  csumV : Bool
  /-- the most recent command was a verify that produced a verdict. -/
  vfyV : Bool
  /-- the verdict. -/
  vfy : Bool
deriving DecidableEq, Repr

/-! ## The errors a command can raise (rule R210) -/

/-- An error and, for the two decode errors, its stage. These are the block's exceptions: status
codes, not traps (rule R219). -/
inductive Error where
  | truncated (stage : Stage)
  | malformedLength (stage : Stage)
  | unsupportedProtocol
  | illegalCmd
  | noView
deriving DecidableEq, Repr

/-! ## Register groups -/

/-- A slice descriptor (rules R30, R36): OFF = bits [15:0], LEN = bits [31:16]. -/
structure Slice where
  off : Half
  len : Half
deriving DecidableEq, Repr

/-- Group ETH (rule R32). -/
structure EthRegs where
  smacHi : Half
  smacLo : Word
  dmacHi : Half
  dmacLo : Word
  etype : Half
deriving DecidableEq, Repr

/-- Group IP4 (rule R33). `hlen` is the semantic value in bytes. -/
structure Ip4Regs where
  ver : BitVec 4
  hlen : BitVec 6
  tos : Byte
  tlen : Half
  id : Half
  flags : BitVec 3
  frag : BitVec 13
  ttl : Byte
  proto : Byte
  csum : Half
  src : Word
  dst : Word
  opt : Slice
deriving DecidableEq, Repr

/-- Group TCP (rule R34). `hlen` is the semantic value in bytes. -/
structure TcpRegs where
  sport : Half
  dport : Half
  seqNum : Word
  ackNum : Word
  hlen : BitVec 6
  flags : BitVec 12
  win : Half
  csum : Half
  urg : Half
  opt : Slice
deriving DecidableEq, Repr

/-- Group UDP (rule R35). -/
structure UdpRegs where
  sport : Half
  dport : Half
  len : Half
  csum : Half
deriving DecidableEq, Repr

/-- A descriptor register that holds no value reads 0 (rule R38). -/
def Slice.zero : Slice := { off := 0#16, len := 0#16 }

/-- Group ETH holding no value (rules R32, R38). -/
def EthRegs.zero : EthRegs :=
  { smacHi := 0#16, smacLo := 0#32, dmacHi := 0#16, dmacLo := 0#32, etype := 0#16 }

/-- Group IP4 holding no value (rules R33, R38). -/
def Ip4Regs.zero : Ip4Regs :=
  { ver := 0#4, hlen := 0#6, tos := 0#8, tlen := 0#16, id := 0#16, flags := 0#3, frag := 0#13,
    ttl := 0#8, proto := 0#8, csum := 0#16, src := 0#32, dst := 0#32, opt := Slice.zero }

/-- Group TCP holding no value (rules R34, R38). -/
def TcpRegs.zero : TcpRegs :=
  { sport := 0#16, dport := 0#16, seqNum := 0#32, ackNum := 0#32, hlen := 0#6, flags := 0#12,
    win := 0#16, csum := 0#16, urg := 0#16, opt := Slice.zero }

/-- Group UDP holding no value (rules R35, R38). -/
def UdpRegs.zero : UdpRegs := { sport := 0#16, dport := 0#16, len := 0#16, csum := 0#16 }

/-! ## The frame buffer -/

/-- The frame buffer FB (rule R41): the bytes written since reset, addresses strictly rising, and what
selects the arbitrary array that unwritten bytes read as (rule R41, log entries 2 and 10). -/
structure Memory where
  cells : List Host.Cell
  /-- which block this buffer belongs to (log entry 10); no step changes it. -/
  block : Nat
  /-- the number of resets so far (log entry 2). -/
  epoch : Nat
deriving DecidableEq, Repr

/-! ## The host's side -/

/-- What the host can do to the block: the four transactions of rules R69 and R70, and the reset input
of rule R240 (one whole pulse; log entry 4). -/
inductive HostInput where
  /-- `HostRead(num)`. -/
  | read (num : RegNum)
  /-- `HostWrite(num, v)`. -/
  | write (num : RegNum) (v : Word)
  /-- `HostFBRead(a)`. -/
  | fbRead (a : Half)
  /-- `HostFBWrite(a, b)`. -/
  | fbWrite (a : Half) (b : Byte)
  /-- the reset input asserted and released. -/
  | reset
deriving DecidableEq, Repr

/-- What the most recent host transaction gave back (rule R80, column "the host gets back"). -/
inductive HostReply where
  | nothing
  | word (v : Word)
  | byte (b : Byte)
deriving DecidableEq, Repr

/-! ## The state -/

/-- The architectural state of rule R20, and three fields of the model's own: `cfg` (the parameter of
rule R6), `pending` (the transactions the host has still to issue, oldest first, rule R74) and `reply`
(what the last one gave back). -/
structure State where
  /-- the implementation parameter (rule R6), which no step changes. -/
  cfg : Config
  /-- the frame buffer FB (rule R41). -/
  fb : Memory
  /-- FLEN, register 0x02 (rule R25). -/
  flen : Half
  /-- CUR, register 0x03 (rule R26). -/
  cur : Half
  /-- STATUS, register 0x01 (rule R24). -/
  status : Status
  /-- OP_SRC, register 0x04 (rule R27). -/
  opSrc : Word
  /-- OP_DST, register 0x05 (rule R28). -/
  opDst : Word
  /-- OP_PROTO, register 0x06 (rule R29). -/
  opProto : Byte
  /-- OP_SEG, register 0x07 (rule R30). -/
  opSeg : Slice
  /-- CSUM, register 0x08 (rule R31). -/
  csum : Half
  /-- group ETH, registers 0x10 to 0x14 (rule R32). -/
  eth : EthRegs
  /-- group IP4, registers 0x18 to 0x24 (rule R33). -/
  ip4 : Ip4Regs
  /-- group TCP, registers 0x28 to 0x31 (rule R34). -/
  tcp : TcpRegs
  /-- group UDP, registers 0x34 to 0x37 (rule R35). -/
  udp : UdpRegs
  /-- PAYLOAD, register 0x38 (rule R36). -/
  payload : Slice
  /-- the host transactions still to come, oldest first (rule R74; log entry 3). -/
  pending : List HostInput
  /-- what the last host transaction gave back (rule R80; log entry 3). -/
  reply : HostReply
deriving DecidableEq, Repr

/-- The faults of the block: none. Rule R221: "A model's step function is therefore total, and its
fault set for this block is empty". -/
inductive Fault where
deriving DecidableEq, Repr

/-- The refusals. -/
inductive Refusal where
  /-- raised by `exec` alone, for a command whose meaning is not written yet. Safe: nothing follows
  from a refusal. No arm of `exec` raises it. -/
  | notModelled (mnemonic : String)
deriving DecidableEq, Repr

/-! ## Reset -/

/-- STATUS after reset (rule R45): 0x00000000. -/
def Status.reset : Status :=
  { err := .ok, stage := .none, view := .none, l3tag := .unknown, l4tag := .unknown,
    csumV := false, vfyV := false, vfy := false }

/-- The state after reset (rules R45, R240) of the block numbered `block`, with configuration `c`: no byte
of FB written, so that FB is "an arbitrary array", and the host with nothing to say. DESIGN CHOICE (log
entry 10): the array is the one of that block's count 0, so that two blocks fresh from reset hold the same
FB bytes if they are given the same number, and unrelated ones otherwise. -/
def State.resetWith (c : Config) (block : Nat) : State :=
  { cfg := c
    fb := { cells := [], block := block, epoch := 0 }
    flen := 0#16
    cur := 0#16
    status := Status.reset
    opSrc := 0#32
    opDst := 0#32
    opProto := 0#8
    opSeg := Slice.zero
    csum := 0#16
    eth := EthRegs.zero
    ip4 := Ip4Regs.zero
    tcp := TcpRegs.zero
    udp := UdpRegs.zero
    payload := Slice.zero
    pending := []
    reply := .nothing }

/-- The machine right after reset, with the frame buffer capacity of the spec's examples (log entry 1),
as block number 0 (log entry 10). -/
def State.reset : State := State.resetWith Config.examples 0

end Sys2Proof.Machine
end

