-- ==== Sys2Proof/Machine/Flags.lean ====
section
/-! DEFINITION. The STATUS fields: their encodings (spec/10_state.md rule R24, spec/30_encoding.md rule
R95), the code and stage of an error (spec/60_exceptions.md rules R210, R217), and the word the host
reads. The block has no other flags (rule R44). -/

namespace Sys2Proof.Machine

/-- STATUS.ERR, bits [2:0] (rule R24). -/
def ErrCode.bits : ErrCode → BitVec 3
  | .ok => 0#3
  | .truncated => 1#3
  | .malformedLength => 2#3
  | .unsupportedProtocol => 3#3
  | .illegalCmd => 4#3
  | .noView => 5#3

/-- STATUS.STAGE, bits [5:3] (rules R24, R217). -/
def Stage.bits : Stage → BitVec 3
  | .none => 0#3
  | .eth => 1#3
  | .ipv4 => 2#3
  | .tcp => 3#3
  | .udp => 4#3
  | .seg => 5#3

/-- STATUS.VIEW, bits [7:6] (rule R24). -/
def View.bits : View → BitVec 2
  | .none => 0#2
  | .decoded => 1#2
  | .checksum => 2#2

/-- STATUS.L3TAG, bit [8] (rules R24, R95). -/
def L3Tag.bits : L3Tag → BitVec 1
  | .unknown => 0#1
  | .ipv4 => 1#1

/-- STATUS.L4TAG, bits [10:9] (rules R24, R95). -/
def L4Tag.bits : L4Tag → BitVec 2
  | .unknown => 0#2
  | .tcp => 1#2
  | .udp => 2#2

/-- The STATUS word (rule R24), most significant field first: reserved [31:14], VFY [13], VFY_V [12],
CSUM_V [11], L4TAG [10:9], L3TAG [8], VIEW [7:6], STAGE [5:3], ERR [2:0]. -/
def Status.toWord (st : Status) : Word :=
  0#18 ++ BitVec.ofBool st.vfy ++ BitVec.ofBool st.vfyV ++ BitVec.ofBool st.csumV
    ++ st.l4tag.bits ++ st.l3tag.bits ++ st.view.bits ++ st.stage.bits ++ st.err.bits

/-- The code an error leaves in STATUS.ERR (rule R210). -/
def Error.code : Error → ErrCode
  | .truncated _ => .truncated
  | .malformedLength _ => .malformedLength
  | .unsupportedProtocol => .unsupportedProtocol
  | .illegalCmd => .illegalCmd
  | .noView => .noView

/-- The stage an error leaves in STATUS.STAGE: its own for the codes 1 and 2, and 0 for the codes 3, 4
and 5 (rules R216, R217). -/
def Error.stage : Error → Stage
  | .truncated s => s
  | .malformedLength s => s
  | .unsupportedProtocol => .none
  | .illegalCmd => .none
  | .noView => .none

end Sys2Proof.Machine
end

