-- ==== Sys2Proof/Machine/Ops.lean ====
section
/-! DEFINITION. The named operations over the frame buffer and the registers: reading and writing FB
(spec/20_memory.md rules R61, R62, R66), the cursor primitives `take`, `slice` and `rest` (rules R63 to
R65), `BeginCommand` and `DropView` (spec/10_state.md rules R39, R40), and raising an error
(spec/60_exceptions.md rule R216). -/

namespace Sys2Proof.Machine

/-! ## The frame buffer -/

namespace Memory

/-- The written byte at an address, if there is one. -/
def lookup : List Host.Cell → Nat → Option Byte
  | [], _ => none
  | (k, b) :: rest, a => if k = a then some b else lookup rest a

/-- Put a byte at an address, keeping the addresses strictly rising. -/
def insert (a : Nat) (b : Byte) : List Host.Cell → List Host.Cell
  | [] => [(a, b)]
  | (k, v) :: rest =>
    if a < k then (a, b) :: (k, v) :: rest
    else if a = k then (a, b) :: rest
    else (k, v) :: insert a b rest

/-- `FB[a]` (rule R41): the last byte written there, or, where nothing has been written since reset, a
byte of an arbitrary array (log entry 2), which the block number and the reset count alone select
(DESIGN CHOICE, log entry 10: the unwritten bytes of two blocks are equal if both numbers are). -/
def read (m : Memory) (a : Nat) : Byte :=
  (lookup m.cells a).getD (Config.unwrittenByte m.block m.epoch a)

/-- `FB[a] <- b`. -/
def write (m : Memory) (a : Nat) (b : Byte) : Memory :=
  { m with cells := insert a b m.cells }

/-- The n bytes FB[a], ..., FB[a+n−1] as one big-endian number (rules R61, R62). -/
def bigEndian (m : Memory) (a : Nat) : Nat → Nat
  | 0 => 0
  | n + 1 => bigEndian m a n * 256 + (m.read (a + n)).toNat

/-- `MemWrite(a, 2, v)` (rule R66): `FB[a] <- v[15:8]; FB[a+1] <- v[7:0]`. -/
def write16 (m : Memory) (a : Nat) (v : Half) : Memory :=
  (m.write a (v.extractLsb' 8 8)).write (a + 1) (v.extractLsb' 0 8)

/-- The content of FB after one more reset (rule R45: "unspecified"): a new arbitrary array. DESIGN
CHOICE (log entry 10): the block and the count of its resets alone select it, whatever FB held before. -/
def afterReset (m : Memory) : Memory := { cells := [], block := m.block, epoch := m.epoch + 1 }

/-- Addresses strictly rising. -/
def rising : List Host.Cell → Bool
  | [] => true
  | [_] => true
  | (a, _) :: (b, y) :: rest => decide (a < b) && rising ((b, y) :: rest)

/-- The canonical form of the written bytes (log entry 2). An unlisted address holds no written byte, so
no entry can equal what it holds. -/
def wf (m : Memory) : Bool := rising m.cells

/-- Every written byte lies below an address. -/
def below (m : Memory) (n : Nat) : Bool := m.cells.all fun c => decide (c.1 < n)

end Memory

/-! ## The frame and the decode cursor -/

/-- The document's RawFrame: the bytes FB[0..FLEN−1] (rule R20). The header decoders see nothing else of
the state. -/
structure RawFrame where
  fb : Memory
  flen : Nat
deriving DecidableEq, Repr

/-- The frame the block holds. -/
def State.frame (s : State) : RawFrame := { fb := s.fb, flen := s.flen.toNat }

/-- Where and with which error a decode stopped (rule R154). A decode step gives a value and the cursor
after it, or a failure; the cursor is the offset in FB at which the next field is read (rule R26). -/
structure DecodeFailure where
  err : Error
  cur : Nat
deriving DecidableEq, Repr


namespace RawFrame

/-- `MemRead(a, n)` with 8n = `w` (rule R62): `none` where it raises Truncated. The comparison is made on
unbounded integers. -/
def memRead (f : RawFrame) (a w : Nat) : Option (BitVec w) :=
  if a + w / 8 > f.flen then none else some (BitVec.ofNat w (f.fb.bigEndian a (w / 8)))

/-- `take(n)` with 8n = `w` (rule R63): if it raises, the cursor is not advanced. -/
def take (f : RawFrame) (w : Nat) (stage : Stage) (cur : Nat) : Except DecodeFailure (BitVec w × Nat) :=
  match f.memRead cur w with
  | none => .error { err := .truncated stage, cur := cur }
  | some v => .ok (v, cur + w / 8)

/-- `slice(n)` (rule R64): a descriptor of n bytes at the cursor; no byte is read. -/
def slice (f : RawFrame) (n : Nat) (stage : Stage) (cur : Nat) : Except DecodeFailure (Slice × Nat) :=
  if cur + n > f.flen then .error { err := .truncated stage, cur := cur }
  else .ok ({ off := BitVec.ofNat 16 cur, len := BitVec.ofNat 16 n }, cur + n)

/-- `rest()` (rule R65): every byte from the cursor to FLEN, and the cursor at FLEN. It never raises. -/
def rest (f : RawFrame) (cur : Nat) : Slice × Nat :=
  ({ off := BitVec.ofNat 16 cur, len := BitVec.ofNat 16 (f.flen - cur) }, f.flen)

/-- `OptionsSlice(hlen, stage)` (rule R113): the guard comes before the subtraction. -/
def optionsSlice (f : RawFrame) (hlen : Nat) (stage : Stage) (cur : Nat) : Except DecodeFailure (Slice × Nat) :=
  if hlen < minHlen then .error { err := .malformedLength stage, cur := cur }
  else f.slice (hlen - minHlen) stage cur

end RawFrame

/-! ## Register operations every command shares -/

namespace State

/-- `BeginCommand()` (rule R39). -/
def beginCommand (s : State) : State :=
  { s with
    status := { s.status with
      err := .ok, stage := .none, csumV := false, vfyV := false, vfy := false }
    csum := 0#16 }

/-- `DropView()` (rule R40). -/
def dropView (s : State) : State :=
  { s with
    status := { s.status with view := .none, l3tag := .unknown, l4tag := .unknown }
    eth := EthRegs.zero
    ip4 := Ip4Regs.zero
    tcp := TcpRegs.zero
    udp := UdpRegs.zero
    payload := Slice.zero }

/-- `raise E(S)` (rules R216, R219): taking an exception, which in this block is leaving a code and a
stage in STATUS. Nothing is saved and control goes nowhere; there is no return (rule R220). Every
command that can raise has performed `BeginCommand()`, so CSUM_V, VFY_V, VFY and CSUM are 0. -/
def raise (e : Error) (s : State) : State :=
  { s with status := { s.status with err := e.code, stage := e.stage } }

/-- `raise E(S)` in PARSE and PARSEC (rules R154, R216): CUR also shows the cursor at the raise. -/
def raiseAt (d : DecodeFailure) (s : State) : State :=
  { raise d.err s with cur := BitVec.ofNat 16 d.cur }

/-- `R[CSUM] <- c; STATUS.CSUM_V <- 1` (rule R39). -/
def deliverChecksum (c : Half) (s : State) : State :=
  { s with status := { s.status with csumV := true }, csum := c }

/-- `STATUS.VFY_V <- 1; STATUS.VFY <- v` (rule R39). -/
def deliverVerdict (v : Bool) (s : State) : State :=
  { s with status := { s.status with vfyV := true, vfy := v } }

/-- `MemWrite(a, 2, v)` on the block's frame buffer (rule R66). -/
def memWrite (a : Nat) (v : Half) (s : State) : State := { s with fb := s.fb.write16 a v }

end State

end Sys2Proof.Machine
end

