-- ==== Sys2Proof/Machine/Operands.lean ====
section
/-! DEFINITION. Every operand form of the block: the six sub-field views of a frame word
(spec/30_encoding.md rule R97), the packing of a slice descriptor (spec/10_state.md rules R30, R36), and
the arguments of the checksum engine, from the held view (spec/43_checksum.md rule R177) or from the
operand registers (rule R180). -/

namespace Sys2Proof.Machine

/-! ## Sub-field views (rule R97) -/

/-- IPv4 version: W[7:4] of byte 0 of the header. -/
def ipVersion (b0 : Byte) : BitVec 4 := b0.extractLsb' 4 4

/-- IPv4 header_length in bytes: W[3:0] × 4 of the same byte. -/
def ipHlen (b0 : Byte) : BitVec 6 := (b0.extractLsb' 0 4).setWidth 6 * 4#6

/-- IPv4 flags: W[15:13] of the word at header bytes 6 and 7. -/
def ipFlags (w : Half) : BitVec 3 := w.extractLsb' 13 3

/-- IPv4 fragment_offset: W[12:0] of the same word. -/
def ipFrag (w : Half) : BitVec 13 := w.extractLsb' 0 13

/-- TCP header_length in bytes: W[15:12] × 4 of the word at header bytes 12 and 13. -/
def tcpHlen (w : Half) : BitVec 6 := (w.extractLsb' 12 4).setWidth 6 * 4#6

/-- TCP flags: W[11:0] of the same word. -/
def tcpFlags (w : Half) : BitVec 12 := w.extractLsb' 0 12

/-! ## Descriptors -/

/-- A descriptor as the register value: LEN in bits [31:16], OFF in bits [15:0] (rules R30, R36). -/
def Slice.toWord (d : Slice) : Word := d.len ++ d.off

/-- The descriptor a register value names (rule R30). -/
def Slice.ofWord (v : Word) : Slice := { off := v.extractLsb' 0 16, len := v.extractLsb' 16 16 }

/-! ## The checksum engine's arguments -/

/-- The arguments of the document's `checksum(src_ip, dst_ip, protocol, segment)`. -/
structure EngineArgs where
  src : Word
  dst : Word
  proto : Byte
  seg : Slice
deriving DecidableEq, Repr

/-- CKSUM, VERIFY and PATCH take them from the held view (rule R177). -/
def State.viewArgs (s : State) : EngineArgs :=
  { src := s.ip4.src, dst := s.ip4.dst, proto := s.ip4.proto, seg := s.payload }

/-- CSUMR and VERIFYR take them from the operand registers (rule R180). -/
def State.hostArgs (s : State) : EngineArgs :=
  { src := s.opSrc, dst := s.opDst, proto := s.opProto, seg := s.opSeg }

/-- The window of CSUMR and VERIFYR leaves the frame: a + L > FLEN, computed without wrapping (rules R180,
R181). -/
def State.windowOutside (s : State) : Bool :=
  decide (s.opSeg.off.toNat + s.opSeg.len.toNat > s.flen.toNat)

end Sys2Proof.Machine
end

