-- ==== Sys2Proof/Machine/TagMux.lean ====
section
/-! DEFINITION. The protocol-tag multiplexer (spec/41_dispatch.md). It never fails (rule R143). -/

namespace Sys2Proof.Machine

/-- `SelectL3(etype)` (rule R140). -/
def selectL3 (etype : Half) : L3Tag :=
  if etype = ethertypeIpv4 then .ipv4 else .unknown

/-- `SelectL4(key)` (rule R141): the key is absent when Layer3 is Unknown. -/
def selectL4 : Option Byte → L4Tag
  | none => .unknown
  | some key =>
    if key = protoTcp then .tcp
    else if key = protoUdp then .udp
    else .unknown

end Sys2Proof.Machine
end

