-- ==== Sys2Proof/Machine/HeaderModels.lean ====
section
/-! DEFINITION. The four header decoders (spec/40_header_models.md rules R114 to R117) and the two
composite decodes built from them (spec/42_frame_commands.md rules R152, R153), as functions of the
frame alone. They extract and do not validate (rule R118). -/

namespace Sys2Proof.Machine

/-- `DecodeEth()` (rule R114): source MAC, destination MAC, ethertype. A 6-byte address fills the register
pair `_HI`, `_LO` most significant byte first (rule R32). -/
def decodeEth (f : RawFrame) (cur : Nat) : Except DecodeFailure (EthRegs × Nat) := do
  let (smac, cur) ← f.take 48 .eth cur
  let (dmac, cur) ← f.take 48 .eth cur
  let (etype, cur) ← f.take 16 .eth cur
  return ({ smacHi := smac.extractLsb' 32 16, smacLo := smac.extractLsb' 0 32,
            dmacHi := dmac.extractLsb' 32 16, dmacLo := dmac.extractLsb' 0 32,
            etype := etype }, cur)

/-- `DecodeIpv4()` (rule R115). The options step stands after all twenty fixed bytes (rule R113). -/
def decodeIpv4 (f : RawFrame) (cur : Nat) : Except DecodeFailure (Ip4Regs × Nat) := do
  let (b0, cur) ← f.take 8 .ipv4 cur
  let (tos, cur) ← f.take 8 .ipv4 cur
  let (tlen, cur) ← f.take 16 .ipv4 cur
  let (id, cur) ← f.take 16 .ipv4 cur
  let (w, cur) ← f.take 16 .ipv4 cur
  let (ttl, cur) ← f.take 8 .ipv4 cur
  let (proto, cur) ← f.take 8 .ipv4 cur
  let (hcsum, cur) ← f.take 16 .ipv4 cur
  let (src, cur) ← f.take 32 .ipv4 cur
  let (dst, cur) ← f.take 32 .ipv4 cur
  let (opt, cur) ← f.optionsSlice (ipHlen b0).toNat .ipv4 cur
  return ({ ver := ipVersion b0, hlen := ipHlen b0, tos := tos, tlen := tlen, id := id,
            flags := ipFlags w, frag := ipFrag w, ttl := ttl, proto := proto, csum := hcsum,
            src := src, dst := dst, opt := opt }, cur)

/-- `DecodeTcp()` (rule R116). -/
def decodeTcp (f : RawFrame) (cur : Nat) : Except DecodeFailure (TcpRegs × Nat) := do
  let (sport, cur) ← f.take 16 .tcp cur
  let (dport, cur) ← f.take 16 .tcp cur
  let (seqNum, cur) ← f.take 32 .tcp cur
  let (ackNum, cur) ← f.take 32 .tcp cur
  let (w, cur) ← f.take 16 .tcp cur
  let (win, cur) ← f.take 16 .tcp cur
  let (csum, cur) ← f.take 16 .tcp cur
  let (urg, cur) ← f.take 16 .tcp cur
  let (opt, cur) ← f.optionsSlice (tcpHlen w).toNat .tcp cur
  return ({ sport := sport, dport := dport, seqNum := seqNum, ackNum := ackNum, hlen := tcpHlen w,
            flags := tcpFlags w, win := win, csum := csum, urg := urg, opt := opt }, cur)

/-- `DecodeUdp()` (rule R117). -/
def decodeUdp (f : RawFrame) (cur : Nat) : Except DecodeFailure (UdpRegs × Nat) := do
  let (sport, cur) ← f.take 16 .udp cur
  let (dport, cur) ← f.take 16 .udp cur
  let (len, cur) ← f.take 16 .udp cur
  let (csum, cur) ← f.take 16 .udp cur
  return ({ sport := sport, dport := dport, len := len, csum := csum }, cur)

/-! ## The tagged unions and the composite views -/

/-- Layer3, the "tagged union over {Ipv4(Ipv4Header), Unknown}". -/
inductive Layer3 where
  | unknown
  | ipv4 (h : Ip4Regs)
deriving DecidableEq, Repr

/-- Layer4, the "tagged union over {Tcp(TcpHeader), Udp(UdpHeader), Unknown}". -/
inductive Layer4 where
  | unknown
  | tcp (h : TcpRegs)
  | udp (h : UdpRegs)
deriving DecidableEq, Repr

/-- STATUS.L3TAG of a Layer3 (rule R95). -/
def Layer3.tag : Layer3 → L3Tag
  | .unknown => .unknown
  | .ipv4 _ => .ipv4

/-- STATUS.L4TAG of a Layer4 (rule R95). -/
def Layer4.tag : Layer4 → L4Tag
  | .unknown => .unknown
  | .tcp _ => .tcp
  | .udp _ => .udp

/-- The key of the Layer4 selection (rule R141): the protocol of an Ipv4 Layer3, else absent. -/
def Layer3.key : Layer3 → Option Byte
  | .unknown => none
  | .ipv4 h => some h.proto

/-- DecodedFrame: Ethernet header, Layer3, Layer4, payload. -/
structure DecodedFrame where
  eth : EthRegs
  l3 : Layer3
  l4 : Layer4
  payload : Slice
deriving DecidableEq, Repr

/-- ChecksumFrame: Ethernet header, Layer3, and the undivided transport segment. -/
structure ChecksumFrame where
  eth : EthRegs
  l3 : Layer3
  remain : Slice
deriving DecidableEq, Repr

/-- What follows the Layer3 selection (rule R142): Unknown consumes nothing. -/
def decodeLayer3 (f : RawFrame) (etype : Half) (cur : Nat) : Except DecodeFailure (Layer3 × Nat) :=
  match selectL3 etype with
  | .ipv4 => do
    let (h, cur) ← decodeIpv4 f cur
    return (.ipv4 h, cur)
  | .unknown => .ok (.unknown, cur)

/-- What follows the Layer4 selection (rule R142): Unknown consumes nothing. -/
def decodeLayer4 (f : RawFrame) (key : Option Byte) (cur : Nat) : Except DecodeFailure (Layer4 × Nat) :=
  match selectL4 key with
  | .tcp => do
    let (h, cur) ← decodeTcp f cur
    return (.tcp h, cur)
  | .udp => do
    let (h, cur) ← decodeUdp f cur
    return (.udp h, cur)
  | .unknown => .ok (.unknown, cur)

/-- The decode order of a DecodedFrame (rule R152), with the cursor starting at 0. -/
def decodeFrame (f : RawFrame) : Except DecodeFailure (DecodedFrame × Nat) := do
  let (eth, cur) ← decodeEth f 0
  let (l3, cur) ← decodeLayer3 f eth.etype cur
  let (l4, cur) ← decodeLayer4 f l3.key cur
  let (payload, cur) := f.rest cur
  return ({ eth := eth, l3 := l3, l4 := l4, payload := payload }, cur)

/-- The decode order of a ChecksumFrame (rule R153): no Layer4. -/
def decodeChecksumFrame (f : RawFrame) : Except DecodeFailure (ChecksumFrame × Nat) := do
  let (eth, cur) ← decodeEth f 0
  let (l3, cur) ← decodeLayer3 f eth.etype cur
  let (remain, cur) := f.rest cur
  return ({ eth := eth, l3 := l3, remain := remain }, cur)

end Sys2Proof.Machine
end

