-- ==== Sys2Proof/Machine/FrameCommands.lean ====
section
/-! DEFINITION. The meanings of NOP, CLR, PARSE and PARSEC (spec/42_frame_commands.md). -/

namespace Sys2Proof.Machine

/-- The commit of PARSE (rule R152), "only reached when nothing raised"; a group whose variant was not
selected is not written. -/
def State.commitDecoded (d : DecodedFrame) (cur : Nat) (s : State) : State :=
  { s with
    eth := d.eth
    ip4 := match d.l3 with
      | .ipv4 h => h
      | .unknown => s.ip4
    tcp := match d.l4 with
      | .tcp h => h
      | .udp _ | .unknown => s.tcp
    udp := match d.l4 with
      | .udp h => h
      | .tcp _ | .unknown => s.udp
    payload := d.payload
    status := { s.status with l3tag := d.l3.tag, l4tag := d.l4.tag, view := .decoded }
    cur := BitVec.ofNat 16 cur }

/-- The commit of PARSEC (rule R153): L4TAG is 0 whatever the protocol. -/
def State.commitChecksumFrame (d : ChecksumFrame) (cur : Nat) (s : State) : State :=
  { s with
    eth := d.eth
    ip4 := match d.l3 with
      | .ipv4 h => h
      | .unknown => s.ip4
    payload := d.remain
    status := { s.status with l3tag := d.l3.tag, l4tag := .unknown, view := .checksum }
    cur := BitVec.ofNat 16 cur }

/-- NOP (rule R150): "It changes no state at all". -/
def execNop (s : State) : Host.Outcome State Fault Refusal := .next s

/-- CLR (rule R151). -/
def execClr (s : State) : Host.Outcome State Fault Refusal :=
  .next { s.beginCommand.dropView with cur := 0#16 }

/-- PARSE (rules R152, R154). -/
def execParse (s : State) : Host.Outcome State Fault Refusal :=
  let s := s.beginCommand.dropView
  match decodeFrame s.frame with
  | .error d => .next (s.raiseAt d)
  | .ok (d, cur) => .next (s.commitDecoded d cur)

/-- PARSEC (rules R153, R154). -/
def execParsec (s : State) : Host.Outcome State Fault Refusal :=
  let s := s.beginCommand.dropView
  match decodeChecksumFrame s.frame with
  | .error d => .next (s.raiseAt d)
  | .ok (d, cur) => .next (s.commitChecksumFrame d cur)

end Sys2Proof.Machine
end

