-- ==== Sys2Proof/Machine/Checksum.lean ====
section
/-! DEFINITION. The Internet checksum engine and the meanings of CKSUM, VERIFY, CSUMR and VERIFYR
(spec/43_checksum.md). The accumulator is a natural number, which rule R176 allows: no addition
reaches 2^32. -/

namespace Sys2Proof.Machine

/-! ## The engine functions -/

/-- The sum of the k big-endian 16-bit words at FB[a], FB[a+2], ... (rule R170, the loop). -/
def wordSum (m : Memory) (a : Nat) : Nat → Nat
  | 0 => 0
  | k + 1 => wordSum m a k + m.bigEndian (a + 2 * k) 2

/-- `Sum16(a, n)` (rule R170): words are paired from the first byte of the range, and an odd last byte is
a high byte. -/
def sum16 (m : Memory) (a n : Nat) : Nat :=
  wordSum m a (n / 2) + if n % 2 = 1 then (m.read (a + n - 1)).toNat <<< 8 else 0

/-- `Pseudo(src, dst, p, L)` (rule R171). -/
def pseudo (src dst : Word) (p : Byte) (len : Nat) : Nat :=
  (src.extractLsb' 16 16).toNat + (src.extractLsb' 0 16).toNat
    + (dst.extractLsb' 16 16).toNat + (dst.extractLsb' 0 16).toNat + p.toNat + len

/-- The loop of `Fold` (rule R172), at most `fuel` times. -/
def foldLoop : Nat → Nat → Nat
  | 0, acc => acc
  | fuel + 1, acc => if acc / 65536 ≠ 0 then foldLoop fuel (acc % 65536 + acc / 65536) else acc

/-- `Fold(acc)` for a 32-bit acc (rule R172): "the loop body runs at most twice". -/
def fold (acc : Nat) : Nat := foldLoop 2 acc

/-- `(~Fold(acc)) & 0xFFFF` (rules R174, R175), a 16-bit complement. -/
def complementFold (acc : Nat) : Half := ~~~(BitVec.ofNat 16 (fold acc))

/-- `CsumOff(p)` (rule R173): "not defined for other p". -/
def csumOff (p : Byte) : Option Nat :=
  if p = protoTcp then some csumOffTcp
  else if p = protoUdp then some csumOffUdp
  else none

/-- `Supported(p)` (rule R173). -/
def supported (p : Byte) : Bool := (csumOff p).isSome

/-- The accumulator of `Checksum` (rule R174) for the field offset `off`: the two bytes of the field are
never read. -/
def checksumAcc (m : Memory) (x : EngineArgs) (off : Nat) : Nat :=
  pseudo x.src x.dst x.proto x.seg.len.toNat + sum16 m x.seg.off.toNat off
    + sum16 m (x.seg.off.toNat + off + 2) (x.seg.len.toNat - off - 2)

/-- `Checksum(src, dst, p, a, L)` (rule R174). -/
def checksum (m : Memory) (x : EngineArgs) : Except Error Half :=
  match csumOff x.proto with
  | none => .error .unsupportedProtocol
  | some off =>
    if x.seg.len.toNat < off + 2 then .error (.truncated .seg)
    else .ok (complementFold (checksumAcc m x off))

/-- The accumulator of `Verify` (rule R175): the whole segment, "including the checksum field as-is". -/
def verifyAcc (m : Memory) (x : EngineArgs) : Nat :=
  pseudo x.src x.dst x.proto x.seg.len.toNat + sum16 m x.seg.off.toNat x.seg.len.toNat

/-- The verdict of `Verify(src, dst, p, a, L)` for a supported p (rule R175): "true iff the final
complement equals zero". There is no minimum length. -/
def verdict (m : Memory) (x : EngineArgs) : Bool := complementFold (verifyAcc m x) == 0#16

/-! ## The commands -/

/-- The precondition of the two ChecksumFrame methods fails: Layer3 is not Ipv4 or the protocol is
neither TCP nor UDP (rules R177, R213). -/
def State.viewUnsupported (s : State) : Bool :=
  s.status.l3tag != .ipv4 || !supported s.ip4.proto

/-- CKSUM (rule R178). -/
def execCksum (s : State) : Host.Outcome State Fault Refusal :=
  let s := s.beginCommand
  if s.status.view ≠ .checksum then .next (s.raise .noView)
  else if s.viewUnsupported then .next (s.raise .unsupportedProtocol)
  else match checksum s.fb s.viewArgs with
    | .error e => .next (s.raise e)
    | .ok c => .next (s.deliverChecksum c)

/-- VERIFY (rule R179): an unsupported combination has the verdict false and ERR = 3. -/
def execVerify (s : State) : Host.Outcome State Fault Refusal :=
  let s := s.beginCommand
  if s.status.view ≠ .checksum then .next (s.raise .noView)
  else if s.viewUnsupported then .next ((s.deliverVerdict false).raise .unsupportedProtocol)
  else .next (s.deliverVerdict (verdict s.fb s.viewArgs))

/-- CSUMR (rule R180): protocol, then window, then field. -/
def execCsumr (s : State) : Host.Outcome State Fault Refusal :=
  let s := s.beginCommand
  if !supported s.opProto then .next (s.raise .unsupportedProtocol)
  else if s.windowOutside then .next (s.raise (.truncated .seg))
  else match checksum s.fb s.hostArgs with
    | .error e => .next (s.raise e)
    | .ok c => .next (s.deliverChecksum c)

/-- VERIFYR (rule R181): a window outside the frame has no verdict at all. -/
def execVerifyr (s : State) : Host.Outcome State Fault Refusal :=
  let s := s.beginCommand
  if !supported s.opProto then .next ((s.deliverVerdict false).raise .unsupportedProtocol)
  else if s.windowOutside then .next (s.raise (.truncated .seg))
  else .next (s.deliverVerdict (verdict s.fb s.hostArgs))

end Sys2Proof.Machine
end

