-- ==== Sys2Proof/Machine/Patch.lean ====
section
/-! DEFINITION. The meaning of PATCH (spec/44_patch.md). -/

namespace Sys2Proof.Machine

/-- The address of the checksum field of the held view for the field offset `off` (rule R201):
PAYLOAD.OFF + CsumOff(IP4_PROTO), never the fixed addresses 40 and 50. -/
def State.csumFieldAddr (s : State) (off : Nat) : Nat := s.payload.off.toNat + off

/-- The total length PATCH writes (rule R202): t = PAYLOAD.LEN + IP4_HLEN. -/
def State.patchedTotalLength (s : State) : Half := s.payload.len + s.ip4.hlen.setWidth 16

/-- The checksum half of PATCH's commit (rules R200, R201). -/
def State.commitPatchedChecksum (off : Nat) (c : Half) (s : State) : State :=
  (s.memWrite (s.csumFieldAddr off) c).deliverChecksum c

/-- What flag C asks for, computed before anything is written (rules R200, R203): nothing, an error, or
the field offset and the checksum. -/
def State.patchPlan (c : Bool) (s : State) : Except Error (Option (Nat × Half)) :=
  if !c then .ok none
  else match csumOff s.ip4.proto with
    | none => .error .unsupportedProtocol
    | some off =>
      match checksum s.fb s.viewArgs with
      | .error e => .error e
      | .ok v => .ok (some (off, v))

/-- The commit of PATCH (rule R200), "reached only when nothing above raised": the writes, then
`DropView()`. The total length is that of the view held before the drop. -/
def State.commitPatch (plan : Option (Nat × Half)) (l : Bool) (s : State) : State :=
  let s := match plan with
    | none => s
    | some (off, v) => s.commitPatchedChecksum off v
  let s := if l then s.memWrite tlenOff s.patchedTotalLength else s
  s.dropView

/-- PATCH (rule R200). -/
def execPatch (c l : Bool) (s : State) : Host.Outcome State Fault Refusal :=
  let s := s.beginCommand
  if s.status.view ≠ .checksum then .next (s.raise .noView)
  else if !c && !l then .next s
  else if s.status.l3tag ≠ .ipv4 then .next (s.raise .unsupportedProtocol)
  else match s.patchPlan c with
    | .error e => .next (s.raise e)
    | .ok plan => .next (s.commitPatch plan l)

end Sys2Proof.Machine
end

