-- ==== Sys2Proof/Machine/Dispatch.lean ====
section
/-! DEFINITION. The dispatch of a legal command to its meaning (spec/30_encoding.md rule R92). Every
command but NOP performs `BeginCommand()` first, inside its meaning. -/

namespace Sys2Proof.Machine

def exec (i : Instr) (s : State) : Host.Outcome State Fault Refusal :=
  match i with
  | .nop => Sys2Proof.Machine.execNop s
  | .clr => Sys2Proof.Machine.execClr s
  | .parse => Sys2Proof.Machine.execParse s
  | .parsec => Sys2Proof.Machine.execParsec s
  | .cksum => Sys2Proof.Machine.execCksum s
  | .verify => Sys2Proof.Machine.execVerify s
  | .csumr => Sys2Proof.Machine.execCsumr s
  | .verifyr => Sys2Proof.Machine.execVerifyr s
  | .patch c l => Sys2Proof.Machine.execPatch c l s

end Sys2Proof.Machine
end

