-- ==== Sys2Proof/Machine/RegisterMap.lean ====
section
/-! DEFINITION. The register space as the host sees it (spec/10_state.md rules R21 to R36): the map of
rule R22, the 32-bit value of every register, and the effect of a host write on every register but CMD. -/

namespace Sys2Proof.Machine

/-- The assigned registers, in the order of the table of rule R22. -/
inductive RegName where
  | CMD | STATUS | FLEN | CUR | OP_SRC | OP_DST | OP_PROTO | OP_SEG | CSUM
  | ETH_SMAC_HI | ETH_SMAC_LO | ETH_DMAC_HI | ETH_DMAC_LO | ETH_TYPE
  | IP4_VER | IP4_HLEN | IP4_TOS | IP4_TLEN | IP4_ID | IP4_FLAGS | IP4_FRAG | IP4_TTL | IP4_PROTO
  | IP4_CSUM | IP4_SRC | IP4_DST | IP4_OPT
  | TCP_SPORT | TCP_DPORT | TCP_SEQ | TCP_ACK | TCP_HLEN | TCP_FLAGS | TCP_WIN | TCP_CSUM | TCP_URG
  | TCP_OPT
  | UDP_SPORT | UDP_DPORT | UDP_LEN | UDP_CSUM
  | PAYLOAD
deriving DecidableEq, Repr

/-- The access rights of rule R22. -/
inductive Access where
  /-- the host may only read. -/
  | R
  /-- the host may read and write. -/
  | RW
  /-- the host may write; a read returns 0. -/
  | W
deriving DecidableEq, Repr

namespace RegName

/-- Every assigned register (rule R22). -/
def all : List RegName :=
  [CMD, STATUS, FLEN, CUR, OP_SRC, OP_DST, OP_PROTO, OP_SEG, CSUM,
   ETH_SMAC_HI, ETH_SMAC_LO, ETH_DMAC_HI, ETH_DMAC_LO, ETH_TYPE]
  ++ [IP4_VER, IP4_HLEN, IP4_TOS, IP4_TLEN, IP4_ID, IP4_FLAGS, IP4_FRAG, IP4_TTL, IP4_PROTO,
      IP4_CSUM, IP4_SRC, IP4_DST, IP4_OPT]
  ++ [TCP_SPORT, TCP_DPORT, TCP_SEQ, TCP_ACK, TCP_HLEN, TCP_FLAGS, TCP_WIN, TCP_CSUM, TCP_URG,
      TCP_OPT, UDP_SPORT, UDP_DPORT, UDP_LEN, UDP_CSUM, PAYLOAD]

/-- The register number (rule R22, column num). -/
def num : RegName → RegNum
  | CMD => 0x00#6
  | STATUS => 0x01#6
  | FLEN => 0x02#6
  | CUR => 0x03#6
  | OP_SRC => 0x04#6
  | OP_DST => 0x05#6
  | OP_PROTO => 0x06#6
  | OP_SEG => 0x07#6
  | CSUM => 0x08#6
  | ETH_SMAC_HI => 0x10#6
  | ETH_SMAC_LO => 0x11#6
  | ETH_DMAC_HI => 0x12#6
  | ETH_DMAC_LO => 0x13#6
  | ETH_TYPE => 0x14#6
  | IP4_VER => 0x18#6
  | IP4_HLEN => 0x19#6
  | IP4_TOS => 0x1A#6
  | IP4_TLEN => 0x1B#6
  | IP4_ID => 0x1C#6
  | IP4_FLAGS => 0x1D#6
  | IP4_FRAG => 0x1E#6
  | IP4_TTL => 0x1F#6
  | IP4_PROTO => 0x20#6
  | IP4_CSUM => 0x21#6
  | IP4_SRC => 0x22#6
  | IP4_DST => 0x23#6
  | IP4_OPT => 0x24#6
  | TCP_SPORT => 0x28#6
  | TCP_DPORT => 0x29#6
  | TCP_SEQ => 0x2A#6
  | TCP_ACK => 0x2B#6
  | TCP_HLEN => 0x2C#6
  | TCP_FLAGS => 0x2D#6
  | TCP_WIN => 0x2E#6
  | TCP_CSUM => 0x2F#6
  | TCP_URG => 0x30#6
  | TCP_OPT => 0x31#6
  | UDP_SPORT => 0x34#6
  | UDP_DPORT => 0x35#6
  | UDP_LEN => 0x36#6
  | UDP_CSUM => 0x37#6
  | PAYLOAD => 0x38#6

/-- The access rights (rule R22, column access). -/
def access : RegName → Access
  | CMD => .W
  | FLEN | OP_SRC | OP_DST | OP_PROTO | OP_SEG => .RW
  | STATUS | CUR | CSUM
  | ETH_SMAC_HI | ETH_SMAC_LO | ETH_DMAC_HI | ETH_DMAC_LO | ETH_TYPE
  | IP4_VER | IP4_HLEN | IP4_TOS | IP4_TLEN | IP4_ID | IP4_FLAGS | IP4_FRAG | IP4_TTL | IP4_PROTO
  | IP4_CSUM | IP4_SRC | IP4_DST | IP4_OPT
  | TCP_SPORT | TCP_DPORT | TCP_SEQ | TCP_ACK | TCP_HLEN | TCP_FLAGS | TCP_WIN | TCP_CSUM | TCP_URG
  | TCP_OPT | UDP_SPORT | UDP_DPORT | UDP_LEN | UDP_CSUM | PAYLOAD => .R

/-- The register a number names; a number not in the table of rule R22 is unassigned. -/
def ofNum (n : RegNum) : Option RegName := all.find? fun r => r.num == n

/-- `R[NAME]`, the 32-bit value the host reads: a narrower field stands in the low bits and every other
bit reads 0 (rule R21); CMD reads 0 (rule R23). -/
def value (s : State) : RegName → Word
  | CMD => 0#32
  | STATUS => s.status.toWord
  | FLEN => s.flen.setWidth 32
  | CUR => s.cur.setWidth 32
  | OP_SRC => s.opSrc
  | OP_DST => s.opDst
  | OP_PROTO => s.opProto.setWidth 32
  | OP_SEG => s.opSeg.toWord
  | CSUM => s.csum.setWidth 32
  | ETH_SMAC_HI => s.eth.smacHi.setWidth 32
  | ETH_SMAC_LO => s.eth.smacLo
  | ETH_DMAC_HI => s.eth.dmacHi.setWidth 32
  | ETH_DMAC_LO => s.eth.dmacLo
  | ETH_TYPE => s.eth.etype.setWidth 32
  | IP4_VER => s.ip4.ver.setWidth 32
  | IP4_HLEN => s.ip4.hlen.setWidth 32
  | IP4_TOS => s.ip4.tos.setWidth 32
  | IP4_TLEN => s.ip4.tlen.setWidth 32
  | IP4_ID => s.ip4.id.setWidth 32
  | IP4_FLAGS => s.ip4.flags.setWidth 32
  | IP4_FRAG => s.ip4.frag.setWidth 32
  | IP4_TTL => s.ip4.ttl.setWidth 32
  | IP4_PROTO => s.ip4.proto.setWidth 32
  | IP4_CSUM => s.ip4.csum.setWidth 32
  | IP4_SRC => s.ip4.src
  | IP4_DST => s.ip4.dst
  | IP4_OPT => s.ip4.opt.toWord
  | TCP_SPORT => s.tcp.sport.setWidth 32
  | TCP_DPORT => s.tcp.dport.setWidth 32
  | TCP_SEQ => s.tcp.seqNum
  | TCP_ACK => s.tcp.ackNum
  | TCP_HLEN => s.tcp.hlen.setWidth 32
  | TCP_FLAGS => s.tcp.flags.setWidth 32
  | TCP_WIN => s.tcp.win.setWidth 32
  | TCP_CSUM => s.tcp.csum.setWidth 32
  | TCP_URG => s.tcp.urg.setWidth 32
  | TCP_OPT => s.tcp.opt.toWord
  | UDP_SPORT => s.udp.sport.setWidth 32
  | UDP_DPORT => s.udp.dport.setWidth 32
  | UDP_LEN => s.udp.len.setWidth 32
  | UDP_CSUM => s.udp.csum.setWidth 32
  | PAYLOAD => s.payload.toWord

end RegName

namespace State

/-- The value `HostRead(num)` returns (rules R22, R70): 0 for CMD and for unassigned numbers. -/
def hostRead (s : State) (n : RegNum) : Word :=
  match RegName.ofNum n with
  | some r => r.value s
  | none => 0#32

/-- `HostWrite` of FLEN (rule R25): min(v[15:0], FB_BYTES), v[31:16] ignored, and the view dropped. -/
def writeFlen (v : Word) (s : State) : State :=
  { s with flen := BitVec.ofNat 16 (min (v.extractLsb' 0 16).toNat s.cfg.fbBytes) }.dropView

/-- `HostWrite(num, v)` of a register other than CMD (rules R25, R27 to R30, R70): the operand registers
store the field bits of v and keep the view; every other number is ignored. -/
def hostWrite (n : RegNum) (v : Word) (s : State) : State :=
  match RegName.ofNum n with
  | some .FLEN => s.writeFlen v
  | some .OP_SRC => { s with opSrc := v }
  | some .OP_DST => { s with opDst := v }
  | some .OP_PROTO => { s with opProto := v.extractLsb' 0 8 }
  | some .OP_SEG => { s with opSeg := Slice.ofWord v }
  | _ => s

/-- The value `HostFBRead(a)` returns (rule R69): 0 at and above FB_BYTES. -/
def hostFBRead (s : State) (a : Half) : Byte :=
  if a.toNat < s.cfg.fbBytes then s.fb.read a.toNat else 0#8

/-- `HostFBWrite(a, b)` (rule R69): below FB_BYTES it stores the byte and drops the view, whatever the
byte; at or above it changes nothing. -/
def hostFBWrite (a : Half) (b : Byte) (s : State) : State :=
  if a.toNat < s.cfg.fbBytes then { s with fb := s.fb.write a.toNat b }.dropView else s

/-- The reset input asserted and released (rules R40, R45, R240): every architectural field at its reset
value, FB unspecified anew; the parameter and the transactions to come are not the block's to reset. -/
def resetPulse (s : State) : State :=
  { State.resetWith s.cfg s.fb.block with fb := s.fb.afterReset, pending := s.pending }

end State

end Sys2Proof.Machine
end

