-- ==== Sys2Proof/Machine/HostPort.lean ====
section
/-! DEFINITION. One host transaction as one atomic step (spec/20_memory.md rules R69, R70, R74), the
execution of a command word (spec/30_encoding.md rule R92), and the placing of a command where the next
step takes it. -/

namespace Sys2Proof.Machine

/-- The effect of an illegal command word (rules R92, R214): `BeginCommand()`, then `raise IllegalCmd`. -/
def State.illegalCommand (s : State) : State := s.beginCommand.raise .illegalCmd

/-- `Exec(w)` (rule R92). -/
def execWord (w : Word) (s : State) : Host.Outcome State Fault Refusal :=
  match decode w with
  | .error _ => .next s.illegalCommand
  | .ok i => exec i s

/-- One host transaction (rules R69, R70, R77), the reply it gives back (rule R80), or a reset pulse. -/
def serve (input : HostInput) (s : State) : Host.Outcome State Fault Refusal :=
  match input with
  | .read n => .next { s with reply := .word (s.hostRead n) }
  | .write n v =>
    if n = RegName.CMD.num then execWord v { s with reply := .nothing }
    else .next ({ s with reply := .nothing }.hostWrite n v)
  | .fbRead a => .next { s with reply := .byte (s.hostFBRead a) }
  | .fbWrite a b => .next ({ s with reply := .nothing }.hostFBWrite a b)
  | .reset => .next s.resetPulse

/-- The step of the block: the next transaction in issue order (rule R74); with none to serve "it holds
its state and does nothing" (rule R231). -/
def State.transact (s : State) : Host.Outcome State Fault Refusal :=
  match s.pending with
  | [] => .next s
  | input :: rest => serve input { s with pending := rest }

/-- The host about to write the command word `v` to CMD, before everything it still has to issue. -/
def State.issueCommand (v : Word) (s : State) : State :=
  { s with pending := .write RegName.CMD.num v :: s.pending }

end Sys2Proof.Machine
end

