-- ==== Sys2Proof/Machine/Step.lean ====
section
/-! DEFINITION. One step of the machine: "one host transaction is one step" (spec/70_reset_and_hazards.md
rule R252). -/

namespace Sys2Proof.Machine

/-- One step: the next host transaction, whole (rule R74). -/
def step (s : State) : Host.Outcome State Fault Refusal := s.transact

/-- `s` with a command as the next thing the host writes to CMD (log entry 3): bits at and above `nbits`
are 0. -/
def State.withFetchWord (s : State) (nbits w : Nat) : State :=
  s.issueCommand (BitVec.ofNat 32 (w % 2 ^ nbits))

end Sys2Proof.Machine
end

