-- ==== Sys2Proof/Machine/Assembler.lean ====
section
/-! DEFINITION. The line notation of the spec's test programs (spec/30_encoding.md rules R99, R100): the
lines and pseudo-instructions, the host transactions each stands for, running them with their
`expect` assertions, and the reading of a line of text. -/

namespace Sys2Proof.Machine

/-- One line of a test program (rules R99, R100). -/
inductive AsmLine where
  /-- `nop`, `clr`, `parse`, `parsec`, `cksum`, `verify`, `csumr`, `verifyr`, `patch`, `patch c`, `patch l`,
  `patch cl`. -/
  | command (i : Instr)
  /-- `cmd imm32`, "any word, legal or not". -/
  | cmd (w : Word)
  /-- `wr NAME, imm32`. -/
  | wr (r : RegName) (v : Word)
  /-- `rd NAME`. -/
  | rd (r : RegName)
  /-- `fbw addr, b0 b1 ... bk`. -/
  | fbw (a : Half) (bs : List Byte)
  /-- `fbr addr`. -/
  | fbr (a : Half)
  /-- `frame b0 b1 ... b(n−1)`. -/
  | frame (bs : List Byte)
  /-- `operands src, dst, proto, off, len`. -/
  | operands (src dst proto : Word) (off len : Half)
  /-- `expect NAME = v`. -/
  | expectReg (r : RegName) (v : Word)
  /-- `expect FB[a..b) = bytes`, with b = a + the number of bytes. -/
  | expectFb (a : Half) (bs : List Byte)
deriving DecidableEq, Repr

namespace AsmLine

/-- `HostFBWrite(addr, b0)`, `HostFBWrite(addr+1, b1)`, ..., in that order (rule R99). -/
def writes (a : Half) : List Byte → List HostInput
  | [] => []
  | b :: bs => .fbWrite a b :: writes (a + 1#16) bs

/-- `fbr a`, `fbr a+1`, ..., one for each byte (rule R100). -/
def reads (a : Half) : List Byte → List HostInput
  | [] => []
  | _ :: bs => .fbRead a :: reads (a + 1#16) bs

/-- `HostWrite(num(NAME), v)` (rule R99). -/
def regWrite (r : RegName) (v : Word) : HostInput := .write r.num v

/-- The host transactions a line stands for (rules R99, R100). -/
def inputs : AsmLine → List HostInput
  | command i => [regWrite .CMD (encode i)]
  | cmd w => [regWrite .CMD w]
  | wr r v => [regWrite r v]
  | rd r => [.read r.num]
  | fbw a bs => writes a bs
  | fbr a => [.fbRead a]
  | frame bs => writes 0#16 bs ++ [regWrite .FLEN (BitVec.ofNat 32 bs.length)]
  | operands src dst proto off len =>
    [regWrite .OP_SRC src, regWrite .OP_DST dst, regWrite .OP_PROTO proto,
     regWrite .OP_SEG (Slice.toWord { off := off, len := len })]
  | expectReg r _ => [.read r.num]
  | expectFb a bs => reads a bs

/-- The values an `expect` line asserts the host reads, in order (rule R100); no other line asserts. -/
def asserted : AsmLine → Option (List HostReply)
  | expectReg _ v => some [.word v]
  | expectFb _ bs => some (bs.map .byte)
  | command _ | cmd _ | wr _ _ | rd _ | fbw _ _ | fbr _ | frame _ | operands _ _ _ _ _ => none

/-- Issue transactions one after another (rule R74) and collect what each gives back. -/
def issue : List HostInput → State → Option (State × List HostReply)
  | [], s => some (s, [])
  | input :: rest, s =>
    match step { s with pending := [input] } with
    | .next t =>
      match issue rest t with
      | some (u, rs) => some (u, t.reply :: rs)
      | none => none
    | .fault _ | .refused _ => none

/-- Run one line; `none` when an assertion fails. -/
def run (l : AsmLine) (s : State) : Option State :=
  match issue l.inputs s with
  | none => none
  | some (t, rs) =>
    match l.asserted with
    | none => some t
    | some expected => if rs = expected then some t else none

/-- Run a program line by line. -/
def runAll : List AsmLine → State → Option State
  | [], s => some s
  | l :: ls, s =>
    match l.run s with
    | some t => runAll ls t
    | none => none

end AsmLine

/-! ## Reading a line of text (rule R99) -/

namespace AsmText

/-- The lower-case form of a letter: "Case is not significant". -/
def lower (c : Char) : Char :=
  if 65 ≤ c.toNat ∧ c.toNat ≤ 90 then Char.ofNat (c.toNat + 32) else c

/-- The text before a comment, in lower case: "`;` starts a comment". -/
def uncomment : List Char → List Char
  | [] => []
  | c :: cs => if c = ';' then [] else lower c :: uncomment cs

/-- The words of a line, separated by spaces and commas; `word` holds the current one, reversed. -/
def words (word : List Char) : List Char → List (List Char)
  | [] => if word.isEmpty then [] else [word.reverse]
  | c :: cs =>
    if c = ' ' ∨ c = ',' ∨ c = '\t' then
      if word.isEmpty then words [] cs else word.reverse :: words [] cs
    else words (c :: word) cs

/-- The value of a digit in a base. -/
def digit (base : Nat) (c : Char) : Option Nat :=
  let n := c.toNat
  let v := if 48 ≤ n ∧ n ≤ 57 then n - 48 else if 97 ≤ n ∧ n ≤ 102 then n - 87 else base
  if v < base then some v else none

/-- The value of digits in a base, most significant first. -/
def digits (base acc : Nat) : List Char → Option Nat
  | [] => some acc
  | c :: cs =>
    match digit base c with
    | some d => digits base (acc * base + d) cs
    | none => none

/-- "Numbers are decimal or `0x` hexadecimal." -/
def number : List Char → Option Nat
  | [] => none
  | '0' :: 'x' :: c :: cs => digits 16 0 (c :: cs)
  | c :: cs => digits 10 0 (c :: cs)

/-- A number that fits a width. -/
def numberOf (w : Nat) (t : List Char) : Option (BitVec w) :=
  match number t with
  | some v => if v < 2 ^ w then some (BitVec.ofNat w v) else none
  | none => none

/-- "bytes as two hex digits each". -/
def hexByte : List Char → Option Byte
  | [a, b] => (digits 16 0 [a, b]).map (BitVec.ofNat 8)
  | _ => none

/-- The name of a register as rule R22 spells it, in lower case. -/
def regSpelling (r : RegName) : List Char :=
  (match r with
  | .CMD => "cmd" | .STATUS => "status" | .FLEN => "flen" | .CUR => "cur" | .OP_SRC => "op_src"
  | .OP_DST => "op_dst" | .OP_PROTO => "op_proto" | .OP_SEG => "op_seg" | .CSUM => "csum"
  | .ETH_SMAC_HI => "eth_smac_hi" | .ETH_SMAC_LO => "eth_smac_lo" | .ETH_DMAC_HI => "eth_dmac_hi"
  | .ETH_DMAC_LO => "eth_dmac_lo" | .ETH_TYPE => "eth_type" | .IP4_VER => "ip4_ver"
  | .IP4_HLEN => "ip4_hlen" | .IP4_TOS => "ip4_tos" | .IP4_TLEN => "ip4_tlen" | .IP4_ID => "ip4_id"
  | .IP4_FLAGS => "ip4_flags" | .IP4_FRAG => "ip4_frag" | .IP4_TTL => "ip4_ttl"
  | .IP4_PROTO => "ip4_proto" | .IP4_CSUM => "ip4_csum" | .IP4_SRC => "ip4_src"
  | .IP4_DST => "ip4_dst" | .IP4_OPT => "ip4_opt" | .TCP_SPORT => "tcp_sport"
  | .TCP_DPORT => "tcp_dport" | .TCP_SEQ => "tcp_seq" | .TCP_ACK => "tcp_ack"
  | .TCP_HLEN => "tcp_hlen" | .TCP_FLAGS => "tcp_flags" | .TCP_WIN => "tcp_win"
  | .TCP_CSUM => "tcp_csum" | .TCP_URG => "tcp_urg" | .TCP_OPT => "tcp_opt"
  | .UDP_SPORT => "udp_sport" | .UDP_DPORT => "udp_dport" | .UDP_LEN => "udp_len"
  | .UDP_CSUM => "udp_csum" | .PAYLOAD => "payload").toList

/-- The register a word names. -/
def regName (t : List Char) : Option RegName := RegName.all.find? fun r => regSpelling r == t

/-- The bounds of `FB[a..b)`; `acc` holds the digits of the bound being read, reversed. -/
def fbRange (acc : List Char) : List Char → Option (Nat × Nat)
  | '.' :: '.' :: cs =>
    match number acc.reverse, cs.getLast?, number cs.dropLast with
    | some a, some ')', some b => some (a, b)
    | _, _, _ => none
  | c :: cs => fbRange (c :: acc) cs
  | [] => none

/-- A command by its mnemonic and its flag word (rule R99). -/
def commandOf (name : List Char) (args : List (List Char)) : Option Instr :=
  if args.isEmpty then
    if name = "nop".toList then some .nop
    else if name = "clr".toList then some .clr
    else if name = "parse".toList then some .parse
    else if name = "parsec".toList then some .parsec
    else if name = "cksum".toList then some .cksum
    else if name = "verify".toList then some .verify
    else if name = "csumr".toList then some .csumr
    else if name = "verifyr".toList then some .verifyr
    else if name = "patch".toList then some (.patch false false)
    else none
  else if name = "patch".toList then
    if args = ["c".toList] then some (.patch true false)
    else if args = ["l".toList] then some (.patch false true)
    else if args = ["cl".toList] then some (.patch true true)
    else none
  else none

/-- An `expect` line: of a register, or of a range of FB. -/
def expectOf : List (List Char) → Option AsmLine
  | ('f' :: 'b' :: '[' :: range) :: ['='] :: bytes =>
    match fbRange [] range, bytes.mapM hexByte with
    | some (a, b), some bs =>
      if b = a + bs.length ∧ a < 2 ^ 16 then some (.expectFb (BitVec.ofNat 16 a) bs) else none
    | _, _ => none
  | [name, ['='], v] =>
    match regName name, numberOf 32 v with
    | some r, some v => some (.expectReg r v)
    | _, _ => none
  | _ => none

/-- A line of words that is not a command. -/
def lineOf (name : List Char) (args : List (List Char)) : Option AsmLine :=
  if name = "cmd".toList then
    match args with
    | [w] => (numberOf 32 w).map .cmd
    | _ => none
  else if name = "wr".toList then
    match args with
    | [r, v] =>
      match regName r, numberOf 32 v with
      | some r, some v => some (.wr r v)
      | _, _ => none
    | _ => none
  else if name = "rd".toList then
    match args with
    | [r] => (regName r).map .rd
    | _ => none
  else if name = "fbr".toList then
    match args with
    | [a] => (numberOf 16 a).map .fbr
    | _ => none
  else if name = "fbw".toList then
    match args with
    | a :: bytes =>
      match numberOf 16 a, bytes.mapM hexByte with
      | some a, some bs => some (.fbw a bs)
      | _, _ => none
    | [] => none
  else if name = "frame".toList then (args.mapM hexByte).map .frame
  else if name = "operands".toList then
    match args with
    | [src, dst, proto, off, len] =>
      match numberOf 32 src, numberOf 32 dst, numberOf 32 proto, numberOf 16 off, numberOf 16 len with
      | some src, some dst, some proto, some off, some len => some (.operands src dst proto off len)
      | _, _, _, _, _ => none
    | _ => none
  else if name = "expect".toList then expectOf args
  else none

/-- One line of text: no line when it is blank or a comment, and `none` when it is no line of the
notation. -/
def parseLine (text : List Char) : Option (Option AsmLine) :=
  match words [] (uncomment text) with
  | [] => some none
  | name :: args =>
    match commandOf name args with
    | some i => some (some (.command i))
    | none => (lineOf name args).map some

end AsmText

end Sys2Proof.Machine
end

