-- ==== Sys2Proof/Machine/Instances.lean ====
section
/-! DEFINITION. Several instances of the block (spec/20_memory.md rule R79, spec/60_exceptions.md rule
R229): "A model of n instances is the product of n models". -/

namespace Sys2Proof.Machine

/-- n instances just reset, each with its own configuration and its own arbitrary FB (rules R41, R79): the
instance's number is its block number. DESIGN CHOICE (log entry 10): without it two instances would read
one array. -/
def resetInstances {n : Nat} (cs : Vector Config n) : Vector State n :=
  Vector.ofFn fun k => State.resetWith (cs.get k) k.val

/-- One step of instance `k` of n instances; which instance steps is the environment's choice. -/
def stepInstance {n : Nat} (k : Fin n) (ms : Vector State n) :
    Host.Outcome (Vector State n) Fault Refusal :=
  match step (ms.get k) with
  | .next s => .next (ms.set k s)
  | .fault r => .fault r
  | .refused r => .refused r

end Sys2Proof.Machine
end

