-- ==== Sys2Proof/Safety.lean ====
section
/-! DEFINITION. The terms the statements use: where each field of a frame stands, read byte by byte from
the layout tables (spec/40_header_models.md rules R114 to R117, spec/42_frame_commands.md rule R156); when a
decode fits (rule R155); the state a successful or failed command leaves; and the invariant of the block
(spec/10_state.md rules R25, R37 to R41). None of it is used by the machine. -/

namespace Sys2Proof.Machine

/-! ## The layout tables, by absolute byte offsets -/

namespace Layout

/-- "the 16-bit field at address a is `FB[a] << 8 | FB[a+1]`" (rule R61). -/
def u16 (m : Memory) (a : Nat) : Half := m.read a ++ m.read (a + 1)

/-- "the 32-bit field at a is `FB[a] << 24 | FB[a+1] << 16 | FB[a+2] << 8 | FB[a+3]`" (rule R61). -/
def u32 (m : Memory) (a : Nat) : Word :=
  m.read a ++ m.read (a + 1) ++ m.read (a + 2) ++ m.read (a + 3)

/-- The ethertype: bytes 12 and 13. -/
def etype (m : Memory) : Half := u16 m 12

/-- Group ETH from bytes 0 to 13 (rules R32, R114). -/
def eth (m : Memory) : EthRegs :=
  { smacHi := u16 m 0, smacLo := u32 m 2, dmacHi := u16 m 6, dmacLo := u32 m 8, etype := etype m }

/-- IPv4 header_length in bytes: the low nibble of byte 14, times 4 (rule R115). -/
def ipHlen (m : Memory) : Nat := (m.read 14).toNat % 16 * 4

/-- The IPv4 protocol: byte 14 + 9. -/
def proto (m : Memory) : Byte := m.read 23

/-- Group IP4 from the header at byte 14 (rule R115). -/
def ip4 (m : Memory) : Ip4Regs :=
  { ver := BitVec.ofNat 4 ((m.read 14).toNat / 16)
    hlen := BitVec.ofNat 6 (ipHlen m)
    tos := m.read 15
    tlen := u16 m 16
    id := u16 m 18
    flags := BitVec.ofNat 3 ((u16 m 20).toNat / 8192)
    frag := BitVec.ofNat 13 ((u16 m 20).toNat % 8192)
    ttl := m.read 22
    proto := proto m
    csum := u16 m 24
    src := u32 m 26
    dst := u32 m 30
    opt := { off := 34#16, len := BitVec.ofNat 16 (ipHlen m - 20) } }

/-- TCP header_length in bytes, for a TCP header at `t`: the high nibble of byte t + 12, times 4
(rule R116). -/
def tcpHlen (m : Memory) (t : Nat) : Nat := (m.read (t + 12)).toNat / 16 * 4

/-- Group TCP from the header at `t` (rule R116). -/
def tcp (m : Memory) (t : Nat) : TcpRegs :=
  { sport := u16 m t
    dport := u16 m (t + 2)
    seqNum := u32 m (t + 4)
    ackNum := u32 m (t + 8)
    hlen := BitVec.ofNat 6 (tcpHlen m t)
    flags := BitVec.ofNat 12 ((u16 m (t + 12)).toNat % 4096)
    win := u16 m (t + 14)
    csum := u16 m (t + 16)
    urg := u16 m (t + 18)
    opt := { off := BitVec.ofNat 16 (t + 20), len := BitVec.ofNat 16 (tcpHlen m t - 20) } }

/-- Group UDP from the header at `t` (rule R117). -/
def udp (m : Memory) (t : Nat) : UdpRegs :=
  { sport := u16 m t, dport := u16 m (t + 2), len := u16 m (t + 4), csum := u16 m (t + 6) }

/-- The (offset, bytes) pairs of the Ethernet fields (rule R114). -/
def ethFields : List (Nat × Nat) := [(0, 6), (6, 6), (12, 2)]

/-- The (offset, bytes) pairs of the twenty fixed bytes of an IPv4 header (rule R115). -/
def ipFields : List (Nat × Nat) :=
  [(0, 1), (1, 1), (2, 2), (4, 2), (6, 2), (8, 1), (9, 1), (10, 2), (12, 4), (16, 4)]

/-- The (offset, bytes) pairs of the twenty fixed bytes of a TCP header (rule R116). -/
def tcpFields : List (Nat × Nat) :=
  [(0, 2), (2, 2), (4, 4), (8, 4), (12, 2), (14, 2), (16, 2), (18, 2)]

/-- The (offset, bytes) pairs of a UDP header (rule R117). -/
def udpFields : List (Nat × Nat) := [(0, 2), (2, 2), (4, 2), (6, 2)]

/-- The descriptor of the bytes from `o` to the end of a frame of `n` bytes. -/
def tail (o n : Nat) : Slice := { off := BitVec.ofNat 16 o, len := BitVec.ofNat 16 (n - o) }

/-- Where the IPv4 header of a frame ends, or the Ethernet header when Layer3 is Unknown. -/
def l3End (m : Memory) : Nat := if etype m = 0x0800#16 then 14 + ipHlen m else 14

/-- The frame is IPv4 with protocol `p`. -/
abbrev isIpv4With (m : Memory) (p : Byte) : Prop := etype m = 0x0800#16 ∧ proto m = p

/-- Where the last header of a DecodedFrame ends (rule R156). -/
def l4End (m : Memory) : Nat :=
  if isIpv4With m 6#8 then l3End m + tcpHlen m (l3End m)
  else if isIpv4With m 17#8 then l3End m + 8
  else l3End m

/-- The condition of rule R155 under which PARSEC succeeds. -/
abbrev parsecFits (s : State) : Prop :=
  14 ≤ s.flen.toNat ∧
  (etype s.fb = 0x0800#16 →
    34 ≤ s.flen.toNat ∧ 20 ≤ ipHlen s.fb ∧ 14 + ipHlen s.fb ≤ s.flen.toNat)

/-- The condition of rule R155 under which PARSE succeeds. -/
abbrev parseFits (s : State) : Prop :=
  parsecFits s ∧
  (isIpv4With s.fb 6#8 →
    34 + ipHlen s.fb ≤ s.flen.toNat ∧ 20 ≤ tcpHlen s.fb (14 + ipHlen s.fb) ∧
      14 + ipHlen s.fb + tcpHlen s.fb (14 + ipHlen s.fb) ≤ s.flen.toNat) ∧
  (isIpv4With s.fb 17#8 → 22 + ipHlen s.fb ≤ s.flen.toNat)

/-- The state a successful PARSE leaves (rule R152), read off the layout tables. -/
def parsed (s : State) : State :=
  { s with
    status :=
      { err := .ok, stage := .none, view := .decoded
        l3tag := if etype s.fb = 0x0800#16 then .ipv4 else .unknown
        l4tag := if isIpv4With s.fb 6#8 then .tcp else if isIpv4With s.fb 17#8 then .udp else .unknown
        csumV := false, vfyV := false, vfy := false }
    csum := 0#16
    cur := s.flen
    eth := eth s.fb
    ip4 := if etype s.fb = 0x0800#16 then ip4 s.fb else Ip4Regs.zero
    tcp := if isIpv4With s.fb 6#8 then tcp s.fb (14 + ipHlen s.fb) else TcpRegs.zero
    udp := if isIpv4With s.fb 17#8 then udp s.fb (14 + ipHlen s.fb) else UdpRegs.zero
    payload := tail (l4End s.fb) s.flen.toNat }

/-- The state a successful PARSEC leaves (rule R153), read off the layout tables. -/
def parsedChecksum (s : State) : State :=
  { s with
    status :=
      { err := .ok, stage := .none, view := .checksum
        l3tag := if etype s.fb = 0x0800#16 then .ipv4 else .unknown
        l4tag := .unknown
        csumV := false, vfyV := false, vfy := false }
    csum := 0#16
    cur := s.flen
    eth := eth s.fb
    ip4 := if etype s.fb = 0x0800#16 then ip4 s.fb else Ip4Regs.zero
    tcp := TcpRegs.zero
    udp := UdpRegs.zero
    payload := tail (l3End s.fb) s.flen.toNat }

/-- The state a PARSE or PARSEC leaves that failed with a code and a stage at cursor `c` (rule R154). -/
def parseFailed (code : ErrCode) (stage : Stage) (c : Nat) (s : State) : State :=
  { s with
    status :=
      { err := code, stage := stage, view := .none, l3tag := .unknown, l4tag := .unknown
        csumV := false, vfyV := false, vfy := false }
    csum := 0#16
    cur := BitVec.ofNat 16 c
    eth := EthRegs.zero
    ip4 := Ip4Regs.zero
    tcp := TcpRegs.zero
    udp := UdpRegs.zero
    payload := Slice.zero }

end Layout

/-! ## Command words -/

/-- `Legal(w)` (rule R94), in the rule's own bits: w[31:16] = 0, and w[15:10] = 0, and w[7:0] is one of the
nine codes, and (w[7:0] = 0x30 or w[9:8] = 0). -/
abbrev LegalWord (w : Word) : Prop :=
  w.extractLsb' 16 16 = 0#16 ∧ w.extractLsb' 10 6 = 0#6 ∧
  w.extractLsb' 0 8 ∈ [0x00#8, 0x01#8, 0x10#8, 0x11#8, 0x20#8, 0x21#8, 0x22#8, 0x23#8, 0x30#8] ∧
  (w.extractLsb' 0 8 = 0x30#8 ∨ w.extractLsb' 8 2 = 0#2)

/-- The twelve legal command words (rule R91). -/
def legalWords : List Word :=
  [0x00000000#32, 0x00000001#32, 0x00000010#32, 0x00000011#32, 0x00000020#32, 0x00000021#32,
   0x00000022#32, 0x00000023#32, 0x00000030#32, 0x00000130#32, 0x00000230#32, 0x00000330#32]

/-! ## Which command can end with which code (rule R232) -/

/-- The (ERR, STAGE) pairs a command can end with; NOP leaves them unchanged. PATCH's TRUNCATED is "flag C
only", and without a flag it examines nothing but the view (rule R200). -/
def endings : Instr → List (ErrCode × Stage)
  | .nop => []
  | .clr => [(.ok, .none)]
  | .parse =>
    [(.ok, .none), (.truncated, .eth), (.truncated, .ipv4), (.truncated, .tcp), (.truncated, .udp),
     (.malformedLength, .ipv4), (.malformedLength, .tcp)]
  | .parsec => [(.ok, .none), (.truncated, .eth), (.truncated, .ipv4), (.malformedLength, .ipv4)]
  | .cksum => [(.ok, .none), (.truncated, .seg), (.unsupportedProtocol, .none), (.noView, .none)]
  | .verify => [(.ok, .none), (.unsupportedProtocol, .none), (.noView, .none)]
  | .csumr => [(.ok, .none), (.truncated, .seg), (.unsupportedProtocol, .none)]
  | .verifyr => [(.ok, .none), (.truncated, .seg), (.unsupportedProtocol, .none)]
  | .patch true _ =>
    [(.ok, .none), (.truncated, .seg), (.unsupportedProtocol, .none), (.noView, .none)]
  | .patch false true => [(.ok, .none), (.unsupportedProtocol, .none), (.noView, .none)]
  | .patch false false => [(.ok, .none), (.noView, .none)]

/-! ## What the scalar commands leave -/

namespace State

/-- `s` with the scalar results of a command that is not a parse (rules R39, R216): ERR, STAGE, CSUM_V,
VFY_V, VFY and CSUM, and nothing else changed. -/
def withScalars (s : State) (code : ErrCode) (stage : Stage) (csumV vfyV vfy : Bool) (csum : Half) :
    State :=
  { s with
    status := { s.status with err := code, stage := stage, csumV := csumV, vfyV := vfyV, vfy := vfy }
    csum := csum }

/-- `s` with no view (rule R40): VIEW, the tags and every group at 0, and nothing else changed. -/
def withoutView (s : State) : State :=
  { s with
    status := { s.status with view := .none, l3tag := .unknown, l4tag := .unknown }
    eth := EthRegs.zero
    ip4 := Ip4Regs.zero
    tcp := TcpRegs.zero
    udp := UdpRegs.zero
    payload := Slice.zero }

end State

/-- The checksum field stands at offset `off` in a segment of protocol `p` (rule R173): 16 for TCP, 6 for
UDP. -/
abbrev FieldOffset (p : Byte) (off : Nat) : Prop := (p = 6#8 ∧ off = 16) ∨ (p = 17#8 ∧ off = 6)

/-- The protocol is neither TCP nor UDP. -/
abbrev Unsupported (p : Byte) : Prop := p ≠ 6#8 ∧ p ≠ 17#8

/-- The one's-complement sum of a positive accumulator (rule R187): ((x − 1) mod 65535) + 1. -/
def onesSum (x : Nat) : Nat := (x - 1) % 65535 + 1

/-- The sum of `n` bytes of FB from `a` as big-endian 16-bit words, counted from the front (rule R170). -/
def wordsFrom (m : Memory) (a : Nat) : Nat → Nat
  | 0 => 0
  | 1 => (m.read a).toNat * 256
  | n + 2 => (m.read a).toNat * 256 + (m.read (a + 1)).toNat + wordsFrom m (a + 2) n

/-- The accumulator of a checksum whose field stands at `off` (rule R174): the pseudo-header and every
word of the segment but the field. -/
def fieldlessSum (m : Memory) (x : EngineArgs) (off : Nat) : Nat :=
  x.src.toNat / 65536 + x.src.toNat % 65536 + x.dst.toNat / 65536 + x.dst.toNat % 65536
    + x.proto.toNat + x.seg.len.toNat
    + wordsFrom m x.seg.off.toNat off
    + wordsFrom m (x.seg.off.toNat + off + 2) (x.seg.len.toNat - off - 2)

/-- The accumulator of a verification (rule R175): the pseudo-header and every word of the segment. -/
def wholeSum (m : Memory) (x : EngineArgs) : Nat :=
  x.src.toNat / 65536 + x.src.toNat % 65536 + x.dst.toNat / 65536 + x.dst.toNat % 65536
    + x.proto.toNat + x.seg.len.toNat + wordsFrom m x.seg.off.toNat x.seg.len.toNat

/-! ## The invariant of the block -/

namespace State

/-- Group ETH holds a value (rule R37). -/
abbrev holdsEth (s : State) : Prop := s.status.view ≠ .none

/-- Group IP4 holds a value (rule R37). -/
abbrev holdsIp4 (s : State) : Prop := s.status.view ≠ .none ∧ s.status.l3tag = .ipv4

/-- Group TCP holds a value (rule R37). -/
abbrev holdsTcp (s : State) : Prop := s.status.view = .decoded ∧ s.status.l4tag = .tcp

/-- Group UDP holds a value (rule R37). -/
abbrev holdsUdp (s : State) : Prop := s.status.view = .decoded ∧ s.status.l4tag = .udp

/-- The invariant of rule R38, with the two tag clauses of rule R24: "for every group, if rule R37 says it
holds no value then all its registers are 0"; L3TAG is 0 without a view, L4TAG is 0 outside a
DecodedFrame. -/
structure AbsentGroupsZero (s : State) : Prop where
  eth : ¬ s.holdsEth → s.eth = EthRegs.zero
  ip4 : ¬ s.holdsIp4 → s.ip4 = Ip4Regs.zero
  tcp : ¬ s.holdsTcp → s.tcp = TcpRegs.zero
  udp : ¬ s.holdsUdp → s.udp = UdpRegs.zero
  payload : s.status.view = .none → s.payload = Slice.zero
  l3tag : s.status.view = .none → s.status.l3tag = .unknown
  l4tag : s.status.view ≠ .decoded → s.status.l4tag = .unknown

/-- The scalar results agree with one another (rules R24, R31, R39): STAGE is 0 exactly when ERR is neither
TRUNCATED nor MALFORMED_LENGTH, CSUM is 0 without CSUM_V, VFY is 0 without VFY_V, a checksum comes with
ERR = 0 and no verdict, a verdict with ERR = 0 or UNSUPPORTED_PROTOCOL, and a true one with ERR = 0. -/
structure ScalarsAgree (s : State) : Prop where
  stage : s.status.stage ≠ .none ↔ s.status.err = .truncated ∨ s.status.err = .malformedLength
  csum : s.status.csumV = false → s.csum = 0#16
  vfy : s.status.vfyV = false → s.status.vfy = false
  csumV : s.status.csumV = true → s.status.err = .ok ∧ s.status.vfyV = false
  vfyV : s.status.vfyV = true → s.status.err = .ok ∨ s.status.err = .unsupportedProtocol
  vfyTrue : s.status.vfy = true → s.status.err = .ok

/-- FLEN and CUR stay within the buffer and FB in its canonical form (rules R25, R26, R41). -/
structure BufferBounded (s : State) : Prop where
  cfg : s.cfg.Valid
  flen : s.flen.toNat ≤ s.cfg.fbBytes
  cur : s.cur.toNat ≤ s.cfg.fbBytes
  wf : s.fb.wf = true
  below : s.fb.below s.cfg.fbBytes = true

/-- The view, if one is held, is the decode of the frame as it stands (rules R40, R78): the tags and the
groups are what a parse of FB[0..FLEN−1] gives now. -/
def ViewIsCurrent (s : State) : Prop :=
  (s.status.view = .decoded →
    Layout.parseFits s ∧
    s.status.l3tag = (Layout.parsed s).status.l3tag ∧ s.status.l4tag = (Layout.parsed s).status.l4tag ∧
    s.eth = (Layout.parsed s).eth ∧ s.ip4 = (Layout.parsed s).ip4 ∧ s.tcp = (Layout.parsed s).tcp ∧
    s.udp = (Layout.parsed s).udp ∧ s.payload = (Layout.parsed s).payload) ∧
  (s.status.view = .checksum →
    Layout.parsecFits s ∧
    s.status.l3tag = (Layout.parsedChecksum s).status.l3tag ∧ s.status.l4tag = .unknown ∧
    s.eth = (Layout.parsedChecksum s).eth ∧ s.ip4 = (Layout.parsedChecksum s).ip4 ∧
    s.payload = (Layout.parsedChecksum s).payload)

/-- The invariant of the block: a state every run from reset stays in. -/
structure Inv (s : State) : Prop where
  buffer : s.BufferBounded
  scalars : s.ScalarsAgree
  groups : s.AbsentGroupsZero
  view : s.ViewIsCurrent

/-- The states agree on every architectural field but FB, and on every byte of the frame (rule R72). -/
structure AgreeOnFrame (s t : State) : Prop where
  rest : { t with fb := s.fb } = s
  bytes : ∀ a, a < s.flen.toNat → s.fb.read a = t.fb.read a

end State

end Sys2Proof.Machine
end

