-- ==== Sys2Proof/Certificates/Slice0/Obligations.lean ====
section
/-! DEFINITION. The statements for the provers, file by file of spec/. A statement about a command gives the
next state itself, so it says that the command completes, what it computes and that nothing else
changes. The state updates `withScalars` and `withoutView` and the tables of `Layout` stand in
Sys2Proof/Safety.lean. -/

open Sys2Proof Sys2Proof.Machine

/-! ## Encoding and dispatch (spec/30_encoding.md) -/

/-- Decoding and encoding agree on all 2^32 words: a well-formed command's word decodes to it, and a word that
decodes to a command is that command's word, every flag bit at every value (rules R90 to R93). -/
def Obligations.DecodeAndEncodeAgree : Prop :=
  (∀ i : Instr, i.WellFormed → decode (encode i) = .ok i) ∧
  (∀ (w : Word) (i : Instr), decode w = .ok i → encode i = w ∧ i.WellFormed)

/-- Rule R94: the decoder accepts exactly the words for which `Legal(w)` holds, which are the twelve words of
rule R91; every other word, written to CMD, raises IllegalCmd. -/
def Obligations.LegalWordsAreTheTwelve : Prop :=
  ∀ w : Word, ((∃ i, decode w = .ok i) ↔ LegalWord w) ∧ (LegalWord w ↔ w ∈ legalWords) ∧
    (¬ LegalWord w → ∀ (s : State) (rest : List HostInput), s.pending = .write 0x00#6 w :: rest →
      ∃ t, step s = .next t ∧ t.status.err = .illegalCmd)

/-- Command words written out from the table of rule R91 decode to the commands they stand for. -/
def Obligations.TableWordsDecode : Prop :=
  decode 0x00000000#32 = .ok .nop ∧ decode 0x00000001#32 = .ok .clr ∧
  decode 0x00000010#32 = .ok .parse ∧ decode 0x00000011#32 = .ok .parsec ∧
  decode 0x00000020#32 = .ok .cksum ∧ decode 0x00000021#32 = .ok .verify ∧
  decode 0x00000022#32 = .ok .csumr ∧ decode 0x00000023#32 = .ok .verifyr ∧
  decode 0x00000130#32 = .ok (.patch true false) ∧ decode 0x00000230#32 = .ok (.patch false true)

/-- Rules R23, R92: a host write of a legal word to CMD is one step, and that step is `exec` of the decoded
command at the same state (with the transaction served and no reply). The same of the word that
`withFetchWord` places. -/
def Obligations.StepRunsTheDecodedCommand : Prop :=
  (∀ (s : State) (w : Word) (i : Instr) (rest : List HostInput),
    s.pending = .write 0x00#6 w :: rest → decode w = .ok i →
    step s = exec i { s with pending := rest, reply := .nothing }) ∧
  (∀ (s : State) (nbits w : Nat) (i : Instr), decodeTableWord nbits w = some i →
    step (s.withFetchWord nbits w) = exec i { s with reply := .nothing })

/-- Rule R214: an illegal word performs `BeginCommand()` and sets ERR = 4, STAGE = 0; nothing else changes. -/
def Obligations.IllegalWordOnlyReportsIllegalCmd : Prop :=
  ∀ (s : State) (w : Word) (rest : List HostInput),
    s.pending = .write 0x00#6 w :: rest → ¬ LegalWord w →
    step s = .next
      ({ s with pending := rest, reply := .nothing }.withScalars .illegalCmd .none false false false 0#16)

/-! ## The multiplexer (spec/41_dispatch.md) -/

/-- Rules R140, R141: the selections are total, and each known variant has exactly its own value. -/
def Obligations.TagSelectionByValue : Prop :=
  (∀ e : Half, selectL3 e = if e.toNat = 2048 then .ipv4 else .unknown) ∧
  selectL4 none = .unknown ∧
  (∀ p : Byte, selectL4 (some p) = if p.toNat = 6 then .tcp else if p.toNat = 17 then .udp else .unknown)

/-! ## Memory primitives (spec/20_memory.md) -/

/-- Rule R62, with the bytes spelt out for n = 1, 2, 4, 6: `MemRead(a, n)` raises exactly when a + n > FLEN,
compared without wrapping, and otherwise gives the n bytes with the byte at the lower address the more
significant. -/
def Obligations.MemReadIsBoundedAndBigEndian : Prop :=
  ∀ (f : RawFrame) (a : Nat),
    (∀ n, n = 1 ∨ n = 2 ∨ n = 4 ∨ n = 6 → (f.memRead a (8 * n) = none ↔ a + n > f.flen)) ∧
    (a + 1 ≤ f.flen → f.memRead a 8 = some (f.fb.read a)) ∧
    (a + 2 ≤ f.flen → f.memRead a 16 = some (f.fb.read a ++ f.fb.read (a + 1))) ∧
    (a + 4 ≤ f.flen → f.memRead a 32 =
      some (f.fb.read a ++ f.fb.read (a + 1) ++ f.fb.read (a + 2) ++ f.fb.read (a + 3))) ∧
    (a + 6 ≤ f.flen → f.memRead a 48 =
      some (f.fb.read a ++ f.fb.read (a + 1) ++ f.fb.read (a + 2) ++ f.fb.read (a + 3)
        ++ f.fb.read (a + 4) ++ f.fb.read (a + 5)))

/-- Rules R63 to R65: `take` and `slice` advance the cursor by what they consume or raise Truncated where it
stands, `slice(0)` at a cursor inside the frame gives an empty descriptor, and `rest` never raises and
leaves the cursor at FLEN. -/
def Obligations.CursorPrimitives : Prop :=
  ∀ (f : RawFrame) (stage : Stage) (cur n : Nat),
    (cur + n > f.flen →
      f.take (8 * n) stage cur = .error { err := .truncated stage, cur := cur } ∧
      f.slice n stage cur = .error { err := .truncated stage, cur := cur }) ∧
    (cur + n ≤ f.flen →
      (∃ v, f.memRead cur (8 * n) = some v ∧ f.take (8 * n) stage cur = .ok (v, cur + n)) ∧
      f.slice n stage cur = .ok ({ off := BitVec.ofNat 16 cur, len := BitVec.ofNat 16 n }, cur + n)) ∧
    f.rest cur = ({ off := BitVec.ofNat 16 cur, len := BitVec.ofNat 16 (f.flen - cur) }, f.flen)

/-- Rules R61, R66: after `MemWrite(a, 2, v)` the two bytes at a read v, high byte first, every other address
reads as before, and the buffer keeps its canonical form. -/
def Obligations.MemWriteStoresTwoBytes : Prop :=
  ∀ (m : Memory) (a x : Nat) (v : Half),
    (m.write16 a v).read x =
      (if x = a then BitVec.ofNat 8 (v.toNat / 256) else if x = a + 1 then BitVec.ofNat 8 (v.toNat % 256)
        else m.read x) ∧
    (m.wf = true → (m.write16 a v).wf = true)

/-! ## The frame commands (spec/42_frame_commands.md) -/

/-- Rule R150: NOP changes no state at all, and a word with OPC 0 and any other bit set is no command. -/
def Obligations.NopChangesNothing : Prop :=
  (∀ s : State, exec .nop s = .next s) ∧
  (∀ w : Word, w.extractLsb' 0 8 = 0x00#8 → w ≠ 0#32 → ∀ i, decode w ≠ .ok i)

/-- Rule R151: CLR leaves STATUS, CUR, CSUM and every group register at 0 and changes nothing else: FB, FLEN and
the operand registers stay. -/
def Obligations.ClrClearsTheResults : Prop :=
  ∀ s : State,
    exec .clr s = .next { s with
      status := { err := .ok, stage := .none, view := .none, l3tag := .unknown, l4tag := .unknown
                  csumV := false, vfyV := false, vfy := false }
      cur := 0#16, csum := 0#16, eth := EthRegs.zero, ip4 := Ip4Regs.zero, tcp := TcpRegs.zero
      udp := UdpRegs.zero, payload := Slice.zero }

/-- Rules R152, R156: on a frame that fits, PARSE fills every register from the byte offsets of the layout
tables, shows CUR = FLEN, and leaves FB, FLEN and the operand registers alone; the payload runs to the end
of the frame. The fields read are those of `Layout.parsed`. -/
def Obligations.ParseDeliversTheLayout : Prop :=
  ∀ s : State, Layout.parseFits s →
    exec .parse s = .next (Layout.parsed s) ∧
    (Layout.parsed s).payload.off.toNat = Layout.l4End s.fb ∧
    (Layout.parsed s).payload.off.toNat + (Layout.parsed s).payload.len.toNat = s.flen.toNat

/-- Rule R153: on a frame that fits, PARSEC fills groups ETH and IP4 and the undivided transport segment, and
leaves L4TAG and groups TCP and UDP at 0. -/
def Obligations.ParsecDeliversTheLayout : Prop :=
  ∀ s : State, Layout.parsecFits s →
    exec .parsec s = .next (Layout.parsedChecksum s) ∧
    (Layout.parsedChecksum s).payload.off.toNat = Layout.l3End s.fb ∧
    (Layout.parsedChecksum s).payload.off.toNat + (Layout.parsedChecksum s).payload.len.toNat
      = s.flen.toNat

/-- Rule R155: when PARSE and PARSEC succeed, as a condition on the buffer. -/
def Obligations.ParseSucceedsExactlyWhenItFits : Prop :=
  ∀ s : State,
    (∃ t, exec .parsec s = .next t ∧ (t.status.err = .ok ↔ Layout.parsecFits s)) ∧
    (∃ t, exec .parse s = .next t ∧ (t.status.err = .ok ↔ Layout.parseFits s))

/-- Rules R114, R154: a frame that ends inside an Ethernet field is Truncated(ETH) with CUR at that field, for
PARSE and PARSEC alike. -/
def Obligations.EthernetTruncation : Prop :=
  ∀ (s : State) (o n : Nat), (o, n) ∈ Layout.ethFields → o ≤ s.flen.toNat → s.flen.toNat < o + n →
    exec .parse s = .next (Layout.parseFailed .truncated .eth o s) ∧
    exec .parsec s = .next (Layout.parseFailed .truncated .eth o s)

/-- Rules R115, R154, R218: the three errors of an IPv4 header, for PARSE and PARSEC alike: a frame that ends
inside one of the twenty fixed bytes, a header_length below 20, an options slice that does not fit. -/
def Obligations.Ipv4HeaderErrors : Prop :=
  ∀ s : State, 14 ≤ s.flen.toNat → Layout.etype s.fb = 0x0800#16 →
    (∀ o n, (o, n) ∈ Layout.ipFields → 14 + o ≤ s.flen.toNat → s.flen.toNat < 14 + o + n →
      exec .parse s = .next (Layout.parseFailed .truncated .ipv4 (14 + o) s) ∧
      exec .parsec s = .next (Layout.parseFailed .truncated .ipv4 (14 + o) s)) ∧
    (34 ≤ s.flen.toNat → Layout.ipHlen s.fb < 20 →
      exec .parse s = .next (Layout.parseFailed .malformedLength .ipv4 34 s) ∧
      exec .parsec s = .next (Layout.parseFailed .malformedLength .ipv4 34 s)) ∧
    (34 ≤ s.flen.toNat → 20 ≤ Layout.ipHlen s.fb → s.flen.toNat < 14 + Layout.ipHlen s.fb →
      exec .parse s = .next (Layout.parseFailed .truncated .ipv4 34 s) ∧
      exec .parsec s = .next (Layout.parseFailed .truncated .ipv4 34 s))

/-- Rules R116, R154, R218: the three errors of a TCP header at `t`. -/
def Obligations.TcpHeaderErrors : Prop :=
  ∀ (s : State) (t : Nat), Layout.parsecFits s → Layout.isIpv4With s.fb 6#8 → t = 14 + Layout.ipHlen s.fb →
    (∀ o n, (o, n) ∈ Layout.tcpFields → t + o ≤ s.flen.toNat → s.flen.toNat < t + o + n →
      exec .parse s = .next (Layout.parseFailed .truncated .tcp (t + o) s)) ∧
    (t + 20 ≤ s.flen.toNat → Layout.tcpHlen s.fb t < 20 →
      exec .parse s = .next (Layout.parseFailed .malformedLength .tcp (t + 20) s)) ∧
    (t + 20 ≤ s.flen.toNat → 20 ≤ Layout.tcpHlen s.fb t → s.flen.toNat < t + Layout.tcpHlen s.fb t →
      exec .parse s = .next (Layout.parseFailed .truncated .tcp (t + 20) s))

/-- Rules R117, R154: a frame that ends inside a field of a UDP header at `t`. -/
def Obligations.UdpHeaderErrors : Prop :=
  ∀ (s : State) (t : Nat), Layout.parsecFits s → Layout.isIpv4With s.fb 17#8 → t = 14 + Layout.ipHlen s.fb →
    ∀ o n, (o, n) ∈ Layout.udpFields → t + o ≤ s.flen.toNat → s.flen.toNat < t + o + n →
      exec .parse s = .next (Layout.parseFailed .truncated .udp (t + o) s)

/-! ## The checksum engine (spec/43_checksum.md, parts 1 and 3) -/

/-- Rule R170: `Sum16(a, n)` pairs the words from the first byte of the range, whatever the parity of a; an odd
last byte is a high byte; the empty range sums to 0. -/
def Obligations.SumPairsFromTheFirstByte : Prop :=
  ∀ (m : Memory) (a n : Nat), sum16 m a n = wordsFrom m a n

/-- Rule R172: what `Fold` does to a 32-bit accumulator, that its loop body runs at most twice (a third pass and
more change nothing), and the rule's examples. -/
def Obligations.FoldOfAThirtyTwoBitAccumulator : Prop :=
  (∀ x, x < 2 ^ 32 → fold x < 65536 ∧ fold x % 65535 = x % 65535 ∧ (fold x = 0 ↔ x = 0) ∧
    (0 < x → fold x = (x - 1) % 65535 + 1) ∧ (∀ n, 2 ≤ n → foldLoop n x = fold x)) ∧
  fold 0 = 0 ∧ fold 0xFFFF = 0xFFFF ∧ fold 0x10000 = 1 ∧ fold 0x1FFFF = 1 ∧ fold 0x2BFDA = 0xBFDC ∧
  fold 0xFFFFFFFF = 0xFFFF

/-- Rule R176: the bounds of the pseudo-header, of `Sum16` and of the two accumulators, which stay below 2^32;
and folding early gives the result of folding once at the end. -/
def Obligations.AccumulatorNeverOverflows : Prop :=
  (∀ (src dst : Word) (p : Byte) (len : Nat), len ≤ 65535 → pseudo src dst p len ≤ 0x500FA) ∧
  (∀ (m : Memory) (a n : Nat), n ≤ 65535 → sum16 m a n ≤ 0x7FFF7F01) ∧
  (∀ (m : Memory) (x : EngineArgs), verifyAcc m x ≤ 0x80047FFB) ∧
  (∀ (m : Memory) (x : EngineArgs) (off : Nat), FieldOffset x.proto off → off + 2 ≤ x.seg.len.toNat →
    checksumAcc m x off ≤ 0x80047FFB) ∧
  (∀ x y, x + y < 2 ^ 32 → fold (x + y) = fold (fold x + fold y))

/-- Rule R182, the round trip: a checksum written into the field of its segment verifies true. -/
def Obligations.ChecksumThenVerifyRoundTrip : Prop :=
  ∀ (m : Memory) (x : EngineArgs) (off : Nat), FieldOffset x.proto off → off + 2 ≤ x.seg.len.toNat →
    ∃ c, checksum m x = .ok c ∧ verdict (m.write16 (x.seg.off.toNat + off) c) x = true

/-- Rule R183: `Sum16` splits at every even point, and the two sums of a checksum are the sum of the whole
segment with its field taken as `00 00`. -/
def Obligations.SumSplitsAtEvenPoints : Prop :=
  (∀ (m : Memory) (a n k : Nat), k % 2 = 0 → k ≤ n → sum16 m a n = sum16 m a k + sum16 m (a + k) (n - k)) ∧
  (∀ (m : Memory) (a n off : Nat), off % 2 = 0 → off + 2 ≤ n →
    sum16 m a off + sum16 m (a + off + 2) (n - off - 2) = sum16 (m.write16 (a + off) 0#16) a n)

/-- Rule R185 (b): a field holding `00 00` is no special case of verification: the verdict is true exactly when
the checksum that would be computed is itself 0x0000. -/
def Obligations.ZeroFieldVerifiesOnlyOnZeroChecksum : Prop :=
  ∀ (m : Memory) (x : EngineArgs) (off : Nat), FieldOffset x.proto off → off + 2 ≤ x.seg.len.toNat →
    m.read (x.seg.off.toNat + off) = 0#8 → m.read (x.seg.off.toNat + off + 1) = 0#8 →
    (verdict m x = true ↔ checksum m x = .ok 0#16)

/-! ## The checksum commands (spec/43_checksum.md, part 2) -/

/-- Rule R178: CKSUM by cases. In every case only ERR, STAGE, CSUM_V, VFY_V, VFY and CSUM change. -/
def Obligations.CksumByCases : Prop :=
  ∀ s : State,
    (s.status.view ≠ .checksum →
      exec .cksum s = .next (s.withScalars .noView .none false false false 0#16)) ∧
    (s.status.view = .checksum → (s.status.l3tag ≠ .ipv4 ∨ Unsupported s.ip4.proto) →
      exec .cksum s = .next (s.withScalars .unsupportedProtocol .none false false false 0#16)) ∧
    (∀ off, s.status.view = .checksum → s.status.l3tag = .ipv4 → FieldOffset s.ip4.proto off →
      s.payload.len.toNat < off + 2 →
      exec .cksum s = .next (s.withScalars .truncated .seg false false false 0#16)) ∧
    (∀ off, s.status.view = .checksum → s.status.l3tag = .ipv4 → FieldOffset s.ip4.proto off →
      off + 2 ≤ s.payload.len.toNat →
      exec .cksum s = .next (s.withScalars .ok .none true false false
        (BitVec.ofNat 16 (0xFFFF - onesSum (fieldlessSum s.fb
          { src := s.ip4.src, dst := s.ip4.dst, proto := s.ip4.proto, seg := s.payload } off)))))

/-- Rule R179: VERIFY by cases; an unsupported combination has the verdict false and ERR = 3, and there is no
minimum length. -/
def Obligations.VerifyByCases : Prop :=
  ∀ s : State,
    (s.status.view ≠ .checksum →
      exec .verify s = .next (s.withScalars .noView .none false false false 0#16)) ∧
    (s.status.view = .checksum → (s.status.l3tag ≠ .ipv4 ∨ Unsupported s.ip4.proto) →
      exec .verify s = .next (s.withScalars .unsupportedProtocol .none false true false 0#16)) ∧
    (s.status.view = .checksum → s.status.l3tag = .ipv4 → (s.ip4.proto = 6#8 ∨ s.ip4.proto = 17#8) →
      exec .verify s = .next (s.withScalars .ok .none false true
        (decide (onesSum (wholeSum s.fb
          { src := s.ip4.src, dst := s.ip4.dst, proto := s.ip4.proto, seg := s.payload }) = 0xFFFF)) 0#16))

/-- Rule R180: CSUMR by cases, the protocol before the window, the window before the field; no view is needed or
changed. -/
def Obligations.CsumrByCases : Prop :=
  ∀ s : State,
    (Unsupported s.opProto →
      exec .csumr s = .next (s.withScalars .unsupportedProtocol .none false false false 0#16)) ∧
    (¬ Unsupported s.opProto → s.flen.toNat < s.opSeg.off.toNat + s.opSeg.len.toNat →
      exec .csumr s = .next (s.withScalars .truncated .seg false false false 0#16)) ∧
    (∀ off, FieldOffset s.opProto off → s.opSeg.off.toNat + s.opSeg.len.toNat ≤ s.flen.toNat →
      s.opSeg.len.toNat < off + 2 →
      exec .csumr s = .next (s.withScalars .truncated .seg false false false 0#16)) ∧
    (∀ off, FieldOffset s.opProto off → s.opSeg.off.toNat + s.opSeg.len.toNat ≤ s.flen.toNat →
      off + 2 ≤ s.opSeg.len.toNat →
      exec .csumr s = .next (s.withScalars .ok .none true false false
        (BitVec.ofNat 16 (0xFFFF - onesSum (fieldlessSum s.fb
          { src := s.opSrc, dst := s.opDst, proto := s.opProto, seg := s.opSeg } off)))))

/-- Rule R181: VERIFYR by cases; a window outside the frame has no verdict at all. -/
def Obligations.VerifyrByCases : Prop :=
  ∀ s : State,
    (Unsupported s.opProto →
      exec .verifyr s = .next (s.withScalars .unsupportedProtocol .none false true false 0#16)) ∧
    (¬ Unsupported s.opProto → s.flen.toNat < s.opSeg.off.toNat + s.opSeg.len.toNat →
      exec .verifyr s = .next (s.withScalars .truncated .seg false false false 0#16)) ∧
    (¬ Unsupported s.opProto → s.opSeg.off.toNat + s.opSeg.len.toNat ≤ s.flen.toNat →
      exec .verifyr s = .next (s.withScalars .ok .none false true
        (decide (onesSum (wholeSum s.fb
          { src := s.opSrc, dst := s.opDst, proto := s.opProto, seg := s.opSeg }) = 0xFFFF)) 0#16))

/-! ## PATCH (spec/44_patch.md) -/

/-- Rule R200: the errors of PATCH, in their order, and PATCH with neither flag; nothing is written and the view
is kept. -/
def Obligations.PatchWithoutAWrite : Prop :=
  ∀ (s : State) (c l : Bool),
    (s.status.view ≠ .checksum →
      exec (.patch c l) s = .next (s.withScalars .noView .none false false false 0#16)) ∧
    (s.status.view = .checksum → c = false → l = false →
      exec (.patch c l) s = .next (s.withScalars .ok .none false false false 0#16)) ∧
    (s.status.view = .checksum → (c = true ∨ l = true) → s.status.l3tag ≠ .ipv4 →
      exec (.patch c l) s = .next (s.withScalars .unsupportedProtocol .none false false false 0#16)) ∧
    (s.status.view = .checksum → s.status.l3tag = .ipv4 → c = true → Unsupported s.ip4.proto →
      exec (.patch c l) s = .next (s.withScalars .unsupportedProtocol .none false false false 0#16)) ∧
    (∀ off, s.status.view = .checksum → s.status.l3tag = .ipv4 → c = true → FieldOffset s.ip4.proto off →
      s.payload.len.toNat < off + 2 →
      exec (.patch c l) s = .next (s.withScalars .truncated .seg false false false 0#16))

/-- Rules R200 to R202: a PATCH with flag C that raises nothing stores the checksum, high byte first, at
PAYLOAD.OFF + CsumOff(IP4_PROTO), with flag L as well the total length PAYLOAD.LEN + IP4_HLEN at bytes 16
and 17, delivers CSUM and drops the view. -/
def Obligations.PatchStoresTheChecksum : Prop :=
  ∀ (s : State) (l : Bool) (off : Nat), s.status.view = .checksum → s.status.l3tag = .ipv4 →
    FieldOffset s.ip4.proto off → off + 2 ≤ s.payload.len.toNat →
    ∃ sum tlen : Half,
      sum.toNat = 0xFFFF - onesSum (fieldlessSum s.fb
        { src := s.ip4.src, dst := s.ip4.dst, proto := s.ip4.proto, seg := s.payload } off) ∧
      tlen.toNat = (s.payload.len.toNat + s.ip4.hlen.toNat) % 65536 ∧
      exec (.patch true l) s = .next
        { (s.withScalars .ok .none true false false sum).withoutView with
          fb := if l then (s.fb.write16 (s.payload.off.toNat + off) sum).write16 16 tlen
                else s.fb.write16 (s.payload.off.toNat + off) sum }

/-- Rule R202: a PATCH with flag L alone does not examine the protocol; it stores the total length at bytes 16
and 17, computes no checksum and drops the view. -/
def Obligations.PatchStoresTheTotalLength : Prop :=
  ∀ s : State, s.status.view = .checksum → s.status.l3tag = .ipv4 →
    ∃ tlen : Half, tlen.toNat = (s.payload.len.toNat + s.ip4.hlen.toNat) % 65536 ∧
      exec (.patch false true) s = .next
        { (s.withScalars .ok .none false false false 0#16).withoutView with
          fb := s.fb.write16 16 tlen }

/-- Rules R201, R205: the frame of PATCH. It writes no byte but the two of the checksum field, with flag C, and
bytes 16 and 17, with flag L; the address of the field is the one `State.csumFieldAddr` gives, applied to
the state the command starts in. FLEN, CUR and the operand registers are unchanged. -/
def Obligations.PatchFrame : Prop :=
  ∀ (s t : State) (c l : Bool), exec (.patch c l) s = .next t →
    (∀ a, (c = true → ∀ off, FieldOffset s.ip4.proto off →
            a ≠ s.csumFieldAddr off ∧ a ≠ s.csumFieldAddr off + 1) →
          (l = true → a ≠ 16 ∧ a ≠ 17) →
          t.fb.read a = s.fb.read a) ∧
    t.flen = s.flen ∧ t.cur = s.cur ∧ t.opSrc = s.opSrc ∧ t.opDst = s.opDst ∧ t.opProto = s.opProto ∧
    t.opSeg = s.opSeg ∧ t.cfg = s.cfg ∧ t.pending = s.pending ∧ t.reply = s.reply

/-- Rule R203: PATCH is all or nothing. If it raises, FB, CSUM, CSUM_V and the view are as `BeginCommand()` left
them. -/
def Obligations.PatchIsAllOrNothing : Prop :=
  ∀ (s t : State) (c l : Bool), exec (.patch c l) s = .next t → t.status.err ≠ .ok →
    t = s.withScalars t.status.err t.status.stage false false false 0#16

/-- Rule R202, on a state the block can be in: after a PATCH with flag L that wrote, the total_length field of
the frame is FLEN − 14, whether or not flag C wrote the checksum too. -/
def Obligations.PatchedTotalLengthCountsTheDatagram : Prop :=
  ∀ (s t : State) (c : Bool), s.Inv → s.status.view = .checksum → s.status.l3tag = .ipv4 →
    exec (.patch c true) s = .next t → t.status.err = .ok →
    (Layout.u16 t.fb 16).toNat = s.flen.toNat - 14 ∧ s.flen.toNat - 14 ≤ 65521

/-- Rule R245: `patch c` followed at once by `verify` gives NO_VIEW, and `patch c`, `parsec`, `verify` gives the
verdict true: for every state the block can be in that holds a ChecksumFrame of an IPv4 TCP or UDP segment
long enough to hold its field, with either value of flag L. -/
def Obligations.PatchParsecVerifyIsTrue : Prop :=
  ∀ (s : State) (l : Bool) (off : Nat), s.Inv → s.status.view = .checksum → s.status.l3tag = .ipv4 →
    FieldOffset s.ip4.proto off → off + 2 ≤ s.payload.len.toNat →
    ∃ t u v : State,
      exec (.patch true l) s = .next t ∧
      exec .verify t = .next (t.withScalars .noView .none false false false 0#16) ∧
      exec .parsec t = .next u ∧ exec .verify u = .next v ∧
      v.status.err = .ok ∧ v.status.vfyV = true ∧ v.status.vfy = true

/-! ## The host transactions (spec/10_state.md, spec/20_memory.md) -/

/-- Rule R69: `HostFBRead` and `HostFBWrite`, below FB_BYTES and at or above it. -/
def Obligations.HostBufferTransactions : Prop :=
  ∀ (s : State) (a : Half) (b : Byte) (rest : List HostInput),
    (s.pending = .fbRead a :: rest →
      step s = .next { s with
        pending := rest
        reply := .byte (if a.toNat < s.cfg.fbBytes then s.fb.read a.toNat else 0#8) }) ∧
    (s.pending = .fbWrite a b :: rest → a.toNat < s.cfg.fbBytes →
      step s = .next { s.withoutView with
        fb := s.fb.write a.toNat b, pending := rest, reply := .nothing }) ∧
    (s.pending = .fbWrite a b :: rest → s.cfg.fbBytes ≤ a.toNat →
      step s = .next { s with pending := rest, reply := .nothing })

/-- Rules R25, R27 to R30, R22, R70: what a host write stores in each writable register, and that a write of any
other register but CMD changes nothing. -/
def Obligations.HostRegisterWrites : Prop :=
  ∀ (s : State) (n : RegNum) (v : Word) (rest : List HostInput), s.pending = .write n v :: rest →
    (n = 0x02#6 → step s = .next { s.withoutView with
      flen := BitVec.ofNat 16 (min (v.toNat % 65536) s.cfg.fbBytes), pending := rest, reply := .nothing }) ∧
    (n = 0x04#6 → step s = .next { s with opSrc := v, pending := rest, reply := .nothing }) ∧
    (n = 0x05#6 → step s = .next { s with opDst := v, pending := rest, reply := .nothing }) ∧
    (n = 0x06#6 → step s = .next { s with
      opProto := BitVec.ofNat 8 (v.toNat % 256), pending := rest, reply := .nothing }) ∧
    (n = 0x07#6 → step s = .next { s with
      opSeg := { off := BitVec.ofNat 16 (v.toNat % 65536), len := BitVec.ofNat 16 (v.toNat / 65536) }
      pending := rest, reply := .nothing }) ∧
    (n ∉ [0x00#6, 0x02#6, 0x04#6, 0x05#6, 0x06#6, 0x07#6] →
      step s = .next { s with pending := rest, reply := .nothing })

/-- Rules R21, R22: the value of every assigned register, by its number; a register number not listed here (CMD,
and the unassigned ones) reads 0. No read changes anything. -/
def Obligations.HostRegisterReads : Prop :=
  ∀ (s : State) (rest : List HostInput),
    let table : List (RegNum × Nat) :=
      [(0x01#6, s.status.toWord.toNat), (0x02#6, s.flen.toNat), (0x03#6, s.cur.toNat),
       (0x04#6, s.opSrc.toNat), (0x05#6, s.opDst.toNat), (0x06#6, s.opProto.toNat),
       (0x07#6, s.opSeg.len.toNat * 65536 + s.opSeg.off.toNat), (0x08#6, s.csum.toNat)]
      ++ [(0x10#6, s.eth.smacHi.toNat), (0x11#6, s.eth.smacLo.toNat), (0x12#6, s.eth.dmacHi.toNat),
          (0x13#6, s.eth.dmacLo.toNat), (0x14#6, s.eth.etype.toNat)]
      ++ [(0x18#6, s.ip4.ver.toNat), (0x19#6, s.ip4.hlen.toNat), (0x1A#6, s.ip4.tos.toNat),
          (0x1B#6, s.ip4.tlen.toNat), (0x1C#6, s.ip4.id.toNat), (0x1D#6, s.ip4.flags.toNat),
          (0x1E#6, s.ip4.frag.toNat), (0x1F#6, s.ip4.ttl.toNat), (0x20#6, s.ip4.proto.toNat),
          (0x21#6, s.ip4.csum.toNat), (0x22#6, s.ip4.src.toNat), (0x23#6, s.ip4.dst.toNat),
          (0x24#6, s.ip4.opt.len.toNat * 65536 + s.ip4.opt.off.toNat)]
      ++ [(0x28#6, s.tcp.sport.toNat), (0x29#6, s.tcp.dport.toNat), (0x2A#6, s.tcp.seqNum.toNat),
          (0x2B#6, s.tcp.ackNum.toNat), (0x2C#6, s.tcp.hlen.toNat), (0x2D#6, s.tcp.flags.toNat),
          (0x2E#6, s.tcp.win.toNat), (0x2F#6, s.tcp.csum.toNat), (0x30#6, s.tcp.urg.toNat),
          (0x31#6, s.tcp.opt.len.toNat * 65536 + s.tcp.opt.off.toNat)]
      ++ [(0x34#6, s.udp.sport.toNat), (0x35#6, s.udp.dport.toNat), (0x36#6, s.udp.len.toNat),
          (0x37#6, s.udp.csum.toNat), (0x38#6, s.payload.len.toNat * 65536 + s.payload.off.toNat)]
    (∀ n v, (n, v) ∈ table → s.pending = .read n :: rest →
      step s = .next { s with pending := rest, reply := .word (BitVec.ofNat 32 v) }) ∧
    (∀ n, n ∉ table.map Prod.fst → s.pending = .read n :: rest →
      step s = .next { s with pending := rest, reply := .word 0#32 })

/-- Rule R24: where each field stands in the STATUS word, and that bits [31:14] read 0. -/
def Obligations.StatusWordFields : Prop :=
  ∀ st : Status,
    (st.toWord.extractLsb' 0 3).toNat = (match st.err with
      | .ok => 0 | .truncated => 1 | .malformedLength => 2 | .unsupportedProtocol => 3 | .illegalCmd => 4
      | .noView => 5) ∧
    (st.toWord.extractLsb' 3 3).toNat = (match st.stage with
      | .none => 0 | .eth => 1 | .ipv4 => 2 | .tcp => 3 | .udp => 4 | .seg => 5) ∧
    (st.toWord.extractLsb' 6 2).toNat = (match st.view with | .none => 0 | .decoded => 1 | .checksum => 2) ∧
    (st.toWord.extractLsb' 8 1).toNat = (match st.l3tag with | .unknown => 0 | .ipv4 => 1) ∧
    (st.toWord.extractLsb' 9 2).toNat = (match st.l4tag with | .unknown => 0 | .tcp => 1 | .udp => 2) ∧
    st.toWord.getLsbD 11 = st.csumV ∧ st.toWord.getLsbD 12 = st.vfyV ∧ st.toWord.getLsbD 13 = st.vfy ∧
    st.toWord.extractLsb' 14 18 = 0#18

/-- Rule R231: with no host transaction to serve the block holds its state and does nothing. -/
def Obligations.IdleBlockHoldsItsState : Prop :=
  ∀ s : State, s.pending = [] → step s = .next s

/-! ## Errors (spec/60_exceptions.md) -/

/-- Rule R221: no error is fatal and there is no stuck state: every step of every state has a next state, and so
has every run; the fault set is empty. -/
def Obligations.EveryStepHasANextState : Prop :=
  (∀ s : State, ∃ t, step s = .next t) ∧ (∀ (n : Nat) (s : State), ∃ t, Host.Core.run core n s = .next t) ∧
  (∀ _ : Fault, False)

/-- Rule R232: which command can end with which code and stage: every ending is in the table, every entry of
the table is the ending of some run of the command, NOP leaves ERR and STAGE as they are, and
UNSUPPORTED_PROTOCOL of a verify comes with the verdict false. -/
def Obligations.EndingsOfEveryCommand : Prop :=
  (∀ (i : Instr) (s t : State), exec i s = .next t → i ≠ .nop →
    (t.status.err, t.status.stage) ∈ endings i) ∧
  (∀ (i : Instr) (e : ErrCode × Stage), e ∈ endings i →
    ∃ s t, exec i s = .next t ∧ (t.status.err, t.status.stage) = e) ∧
  (∀ s t : State, exec .nop s = .next t → t.status.err = s.status.err ∧ t.status.stage = s.status.stage) ∧
  (∀ (i : Instr) (s t : State), i = .verify ∨ i = .verifyr → exec i s = .next t →
    t.status.err = .unsupportedProtocol → t.status.vfyV = true ∧ t.status.vfy = false)

/-! ## Whole-machine rules -/

/-- The scalar commands change ERR, STAGE, CSUM_V, VFY_V, VFY and CSUM and nothing else: every other register, and
every byte of FB, is unchanged (rules R178 to R181, R216). -/
def Obligations.ChecksumCommandsChangeOnlyScalars : Prop :=
  ∀ (i : Instr) (s t : State), i = .cksum ∨ i = .verify ∨ i = .csumr ∨ i = .verifyr → exec i s = .next t →
    t = s.withScalars t.status.err t.status.stage t.status.csumV t.status.vfyV t.status.vfy t.csum

/-- FLEN and the operand registers "are never changed by any command" (rule R216), and no command but PATCH
changes a byte of FB (rule R41). -/
def Obligations.CommandsKeepFlenOperandsAndBuffer : Prop :=
  ∀ (i : Instr) (s t : State), exec i s = .next t →
    t.flen = s.flen ∧ t.opSrc = s.opSrc ∧ t.opDst = s.opDst ∧ t.opProto = s.opProto ∧ t.opSeg = s.opSeg ∧
    t.cfg = s.cfg ∧ t.pending = s.pending ∧ t.reply = s.reply ∧
    ((∀ c l, i ≠ .patch c l) → t.fb = s.fb)

/-- Rule R26: CUR after a command: FLEN after a parse that succeeds, never past FLEN after one that fails, 0 after
CLR; every other command and every host transaction but reset leaves it unchanged. -/
def Obligations.CursorAfterEveryStep : Prop :=
  (∀ (i : Instr) (s t : State), exec i s = .next t →
    (i = .parse ∨ i = .parsec → (t.status.err = .ok → t.cur = s.flen) ∧ t.cur.toNat ≤ s.flen.toNat) ∧
    (i = .clr → t.cur = 0#16) ∧
    (i ≠ .parse → i ≠ .parsec → i ≠ .clr → t.cur = s.cur)) ∧
  (∀ (s t : State) (input : HostInput) (rest : List HostInput), s.pending = input :: rest → input ≠ .reset →
    (∀ w, input ≠ .write 0x00#6 w) → step s = .next t → t.cur = s.cur)

/-- Rule R39: the scalar results belong to the most recent command. CSUM_V is set only by CKSUM, CSUMR and PATCH
with flag C, VFY_V only by VERIFY and VERIFYR, each at 0 with its result after every other command but
NOP; and host transactions other than a write of CMD and reset change none of them. -/
def Obligations.ScalarResultsBelongToTheLatestCommand : Prop :=
  (∀ (i : Instr) (s t : State), exec i s = .next t → i ≠ .nop →
    (t.status.csumV = false → t.csum = 0#16) ∧ (t.status.vfyV = false → t.status.vfy = false) ∧
    (t.status.csumV = true → i = .cksum ∨ i = .csumr ∨ ∃ l, i = .patch true l) ∧
    (t.status.vfyV = true → i = .verify ∨ i = .verifyr)) ∧
  (∀ (s t : State) (input : HostInput) (rest : List HostInput), s.pending = input :: rest → input ≠ .reset →
    (∀ w, input ≠ .write 0x00#6 w) → step s = .next t →
    t.status.err = s.status.err ∧ t.status.stage = s.status.stage ∧ t.status.csumV = s.status.csumV ∧
    t.status.vfyV = s.status.vfyV ∧ t.status.vfy = s.status.vfy ∧ t.csum = s.csum)

/-- Rule R40: the events that end a view. If a step changes VIEW, a tag or a group, the transaction it served is
reset, a write of CMD with CLR, PARSE, PARSEC or a PATCH with a flag, a write of FB below FB_BYTES or a
write of FLEN; in all of them but the two parses the view is gone afterwards. -/
def Obligations.OnlyListedEventsEndTheView : Prop :=
  ∀ (s t : State), step s = .next t →
    (t.status.view ≠ s.status.view ∨ t.status.l3tag ≠ s.status.l3tag ∨ t.status.l4tag ≠ s.status.l4tag ∨
      t.eth ≠ s.eth ∨ t.ip4 ≠ s.ip4 ∨ t.tcp ≠ s.tcp ∨ t.udp ≠ s.udp ∨ t.payload ≠ s.payload) →
    ∃ (input : HostInput) (rest : List HostInput), s.pending = input :: rest ∧
      ((∃ w i, input = .write 0x00#6 w ∧ decode w = .ok i ∧ (i = .parse ∨ i = .parsec)) ∨
       (((∃ w i, input = .write 0x00#6 w ∧ decode w = .ok i ∧
            (i = .clr ∨ ∃ c l, i = .patch c l ∧ (c = true ∨ l = true))) ∨
          input = .reset ∨ (∃ v, input = .write 0x02#6 v) ∨
          (∃ a b, input = .fbWrite a b ∧ a.toNat < s.cfg.fbBytes)) ∧
        t.status.view = .none ∧ t.status.l3tag = .unknown ∧ t.status.l4tag = .unknown ∧
        t.eth = EthRegs.zero ∧ t.ip4 = Ip4Regs.zero ∧ t.tcp = TcpRegs.zero ∧ t.udp = UdpRegs.zero ∧
        t.payload = Slice.zero))

/-- Rule R77, on commands: issuing PARSE, PARSEC, CKSUM, VERIFY, CSUMR, VERIFYR or NOP twice in a row leaves the
state of issuing it once; after a PATCH that wrote a second one gives NO_VIEW, and a PATCH that wrote
nothing may be repeated. -/
def Obligations.RepeatedCommands : Prop :=
  (∀ (i : Instr) (s t : State),
    i ∈ [Instr.parse, .parsec, .cksum, .verify, .csumr, .verifyr, .nop] →
    exec i s = .next t → exec i t = .next t) ∧
  (∀ (c l : Bool) (s t : State), exec (.patch c l) s = .next t →
    ((c = true ∨ l = true) → t.status.err = .ok →
      exec (.patch c l) t = .next (t.withScalars .noView .none false false false 0#16)) ∧
    (c = false ∧ l = false ∨ t.status.err ≠ .ok → exec (.patch c l) t = .next t))

/-- Rule R72: no command reads FB at an address at or above FLEN, and none writes there. On two states the block
can be in that agree on every register and on the frame, a command does the same to both, and leaves every
byte at or above FLEN as it was. -/
def Obligations.CommandsSeeOnlyTheFrame : Prop :=
  ∀ (i : Instr) (s t s' : State), s.Inv → s.AgreeOnFrame t → exec i s = .next s' →
    ∃ t', exec i t = .next t' ∧ s'.AgreeOnFrame t' ∧
      (∀ a, s.flen.toNat ≤ a → s'.fb.read a = s.fb.read a ∧ t'.fb.read a = t.fb.read a)

/-- Rule R79: instances share no state: a step of one leaves every other as it was, and steps of two different
instances can be taken in either order. -/
def Obligations.InstancesAreIndependent : Prop :=
  ∀ (n : Nat) (j k : Fin n) (ms ms' : Vector State n), stepInstance j ms = .next ms' →
    (k ≠ j → ms'.get k = ms.get k) ∧
    (k ≠ j → ∀ ms'', stepInstance k ms' = .next ms'' →
      ∃ mid, stepInstance k ms = .next mid ∧ stepInstance j mid = .next ms'')

/-! ## Reset and the invariant (spec/10_state.md, spec/70_reset_and_hazards.md) -/

/-- Rule R45's table, for every capacity and every block: every register 0, and CMD without storage. Two clauses are the
model's choice: an FB byte is the free value of log entry 2 (of the block's own array, log entry 10), and the block
does nothing until the host's first transaction because none is pending after reset (log entry 3). -/
def Obligations.ResetLeavesTheResetTable : Prop :=
  ∀ (c : Config) (k : Nat) (r : State), r = State.resetWith c k →
    r.status.toWord = 0#32 ∧ r.flen = 0#16 ∧ r.cur = 0#16 ∧ r.opSrc = 0#32 ∧ r.opDst = 0#32 ∧
    r.opProto = 0#8 ∧ r.opSeg.toWord = 0#32 ∧ r.csum = 0#16 ∧
    (∀ n : RegNum, r.hostRead n = 0#32) ∧
    (∀ a, r.fb.read a = Config.unwrittenByte k r.fb.epoch a) ∧
    step r = .next r

/-- A pulse of the reset input, in any state, leaves the registers of the state after reset and FB unspecified
anew; the parameter, the block number and the transactions to come stay. That reset is one event among the host's
inputs is the model's choice (log entry 4), and so is the form of the unspecified FB (log entries 2 and 10). -/
def Obligations.ResetPulseGivesTheResetTable : Prop :=
  ∀ (s r : State) (rest : List HostInput), s.pending = .reset :: rest → step s = .next r →
    { r with fb := s.fb, pending := [] } = { State.resetWith s.cfg s.fb.block with fb := s.fb } ∧
    r.pending = rest ∧ (∀ a, r.fb.read a = Config.unwrittenByte r.fb.block r.fb.epoch a) ∧
    r.fb.block = s.fb.block ∧ r.fb.epoch = s.fb.epoch + 1

/-- Rule R242: the state after reset is safe without any initialisation. Each command on it ends as the rule says,
whatever FB holds, and changes no byte of it. -/
def Obligations.CommandsAfterReset : Prop :=
  ∀ (c : Config) (k : Nat) (m : Memory) (r : State), r = { State.resetWith c k with fb := m } →
    exec .parse r = .next (r.withScalars .truncated .eth false false false 0#16) ∧
    exec .parsec r = .next (r.withScalars .truncated .eth false false false 0#16) ∧
    exec .cksum r = .next (r.withScalars .noView .none false false false 0#16) ∧
    exec .verify r = .next (r.withScalars .noView .none false false false 0#16) ∧
    (∀ p l, exec (.patch p l) r = .next (r.withScalars .noView .none false false false 0#16)) ∧
    exec .csumr r = .next (r.withScalars .unsupportedProtocol .none false false false 0#16) ∧
    exec .verifyr r = .next (r.withScalars .unsupportedProtocol .none false true false 0#16)

/-- The invariant holds after reset, for every capacity rule R6 allows and every block. -/
def Obligations.ResetMeetsTheInvariant : Prop :=
  (∀ (c : Config) (k : Nat), c.Valid → (State.resetWith c k).Inv) ∧ State.reset.Inv

/-- Rule R38: every register of a group that holds no value reads 0, after reset and after every step. -/
def Obligations.AbsentGroupsReadZero : Prop :=
  (∀ (c : Config) (k : Nat), (State.resetWith c k).AbsentGroupsZero) ∧
  (∀ s t : State, s.AbsentGroupsZero → step s = .next t → t.AbsentGroupsZero)

/-- Every step keeps the invariant: FLEN and CUR within the buffer, FB in its canonical form and within it, the
scalar results in agreement, absent groups 0, and a held view the decode of the frame as it stands now. -/
def Obligations.StepKeepsTheInvariant : Prop :=
  ∀ s t : State, s.Inv → step s = .next t → t.Inv

/-- Rules R177, R78: in a state the block can be in, the segment of a held view lies inside the frame and ends
with it, and an IPv4 view has a header_length of 20 to 60. -/
def Obligations.HeldSegmentEndsTheFrame : Prop :=
  ∀ s : State, s.Inv → s.status.view ≠ .none →
    s.payload.off.toNat + s.payload.len.toNat = s.flen.toNat ∧
    (s.status.l3tag = .ipv4 → 20 ≤ s.ip4.hlen.toNat ∧ s.ip4.hlen.toNat ≤ 60 ∧
      34 ≤ s.flen.toNat ∧ s.ip4.opt.len.toNat = s.ip4.hlen.toNat - 20 ∧
      (s.status.view = .checksum → s.payload.off.toNat = 14 + s.ip4.hlen.toNat))

/-! ## The test notation (spec/30_encoding.md rules R99, R100) -/

/-- Rule R100: `frame b0 ... b(n−1)`, of no more bytes than the buffer holds, leaves FLEN = n, the bytes at 0 to
n − 1, every byte from n on as it was, and no view. -/
def Obligations.FrameLineLoadsTheFrame : Prop :=
  ∀ (s : State) (bs : List Byte), s.cfg.Valid → bs.length ≤ s.cfg.fbBytes →
    ∃ t, (AsmLine.frame bs).run s = some t ∧ t.flen.toNat = bs.length ∧ t.status.view = .none ∧
      (∀ (a : Nat) (h : a < bs.length), t.fb.read a = bs[a]) ∧
      (∀ a, bs.length ≤ a → t.fb.read a = s.fb.read a)

/-- Rule R99: the line of a command is one write of its word to CMD, and runs it. -/
def Obligations.CommandLineRunsTheCommand : Prop :=
  ∀ (i : Instr) (s t : State), exec i { s with pending := [], reply := .nothing } = .next t →
    (AsmLine.command i).inputs = [.write 0x00#6 (encode i)] ∧ (AsmLine.command i).run s = some t
end

