-- ==== Sys2Proof/Laws/Memory.lean ====
section
/-! SUPPORT. The frame buffer: read after write, the canonical form is kept, the bound is kept, and big-endian
reads as the bytes of the layout tables (spec/20_memory.md rules R61, R62, R66). -/

namespace Sys2Proof.Machine

namespace Memory

@[simp] theorem write_block (m : Memory) (a : Nat) (b : Byte) : (m.write a b).block = m.block := rfl
@[simp] theorem write16_block (m : Memory) (a : Nat) (v : Half) : (m.write16 a v).block = m.block := rfl
@[simp] theorem afterReset_block (m : Memory) : m.afterReset.block = m.block := rfl
@[simp] theorem afterReset_epoch (m : Memory) : m.afterReset.epoch = m.epoch + 1 := rfl
@[simp] theorem write_epoch (m : Memory) (a : Nat) (b : Byte) : (m.write a b).epoch = m.epoch := rfl
@[simp] theorem write16_epoch (m : Memory) (a : Nat) (v : Half) : (m.write16 a v).epoch = m.epoch := rfl
@[simp] theorem afterReset_cells (m : Memory) : m.afterReset.cells = [] := rfl

theorem lookup_insert_same (a : Nat) (b : Byte) (l : List Host.Cell) : lookup (insert a b l) a = some b := by
  induction l with
  | nil => simp [insert, lookup]
  | cons c l ih =>
    obtain ⟨k, v⟩ := c
    unfold insert
    split
    · simp [lookup]
    · split
      · simp [lookup]
      · rename_i h1 h2
        rw [lookup, if_neg (fun h => h2 h.symm)]
        exact ih

theorem lookup_insert_ne {a x : Nat} (h : x ≠ a) (b : Byte) (l : List Host.Cell) :
    lookup (insert a b l) x = lookup l x := by
  induction l with
  | nil => simp [insert, lookup, Ne.symm h]
  | cons c l ih =>
    obtain ⟨k, v⟩ := c
    unfold insert
    split
    · simp [lookup, Ne.symm h]
    · split
      · rename_i h2
        subst h2
        simp [lookup, Ne.symm h]
      · simp [lookup, ih]

/-- A read after a write to the same address gives the byte written. -/
@[simp] theorem read_write_same (m : Memory) (a : Nat) (b : Byte) : (m.write a b).read a = b := by
  simp [read, write, lookup_insert_same]

/-- A write leaves every other address alone. -/
theorem read_write_ne (m : Memory) {a x : Nat} (h : x ≠ a) (b : Byte) : (m.write a b).read x = m.read x := by
  simp [read, write, lookup_insert_ne h]

theorem read_write (m : Memory) (a x : Nat) (b : Byte) :
    (m.write a b).read x = if x = a then b else m.read x := by
  split
  · rename_i h; subst h; simp
  · rename_i h; exact read_write_ne m h b

/-- What every address reads as after a two-byte store. -/
theorem read_write16 (m : Memory) (a x : Nat) (v : Half) :
    (m.write16 a v).read x =
      if x = a then v.extractLsb' 8 8 else if x = a + 1 then v.extractLsb' 0 8 else m.read x := by
  unfold write16
  rw [read_write, read_write]
  by_cases h1 : x = a
  · simp [h1]
  · by_cases h2 : x = a + 1 <;> simp [h1, h2]

theorem read_write16_ne (m : Memory) {a x : Nat} (v : Half) (h : x < a ∨ a + 1 < x) :
    (m.write16 a v).read x = m.read x := by
  rw [read_write16, if_neg (by omega), if_neg (by omega)]

/-! ### The canonical form -/

theorem rising_cons (c : Host.Cell) (l : List Host.Cell) :
    rising (c :: l) = true ↔ (∀ d ∈ l, c.1 < d.1) ∧ rising l = true := by
  induction l generalizing c with
  | nil => simp [rising]
  | cons d l ih =>
    obtain ⟨a, x⟩ := c
    obtain ⟨b, y⟩ := d
    simp only [rising, Bool.and_eq_true, decide_eq_true_eq, List.mem_cons, forall_eq_or_imp]
    constructor
    · rintro ⟨h1, h2⟩
      have h3 := (ih (b, y)).1 h2
      exact ⟨⟨h1, fun e he => Nat.lt_trans h1 (h3.1 e he)⟩, h2⟩
    · rintro ⟨⟨h1, -⟩, h2⟩
      exact ⟨h1, h2⟩

theorem mem_insert {a : Nat} {b : Byte} {l : List Host.Cell} {c : Host.Cell} (h : c ∈ insert a b l) :
    c = (a, b) ∨ c ∈ l := by
  induction l with
  | nil => simpa [insert] using h
  | cons d l ih =>
    obtain ⟨k, v⟩ := d
    unfold insert at h
    split at h
    · simpa using h
    · split at h
      · rcases List.mem_cons.1 h with h | h
        · exact .inl h
        · exact .inr (List.mem_cons_of_mem _ h)
      · rcases List.mem_cons.1 h with h | h
        · exact .inr (h ▸ List.mem_cons_self)
        · rcases ih h with h | h
          · exact .inl h
          · exact .inr (List.mem_cons_of_mem _ h)

theorem rising_insert (a : Nat) (b : Byte) {l : List Host.Cell} (h : rising l = true) :
    rising (insert a b l) = true := by
  induction l with
  | nil => rfl
  | cons c l ih =>
    obtain ⟨k, v⟩ := c
    have hc := (rising_cons _ _).1 h
    unfold insert
    split
    · rename_i hlt
      refine (rising_cons _ _).2 ⟨?_, h⟩
      intro d hd
      rcases List.mem_cons.1 hd with hd | hd
      · subst hd; exact hlt
      · exact Nat.lt_trans hlt (hc.1 d hd)
    · split
      · rename_i heq
        subst heq
        exact (rising_cons _ _).2 ⟨hc.1, hc.2⟩
      · rename_i h1 h2
        refine (rising_cons _ _).2 ⟨?_, ih hc.2⟩
        intro d hd
        rcases mem_insert hd with hd | hd
        · subst hd; show k < a; omega
        · exact hc.1 d hd

/-- Every write keeps the canonical form. -/
theorem wf_write {m : Memory} (a : Nat) (b : Byte) (h : m.wf = true) : (m.write a b).wf = true :=
  rising_insert a b h

theorem wf_write16 {m : Memory} (a : Nat) (v : Half) (h : m.wf = true) : (m.write16 a v).wf = true :=
  wf_write _ _ (wf_write _ _ h)

theorem wf_afterReset (m : Memory) : m.afterReset.wf = true := rfl

theorem wf_reset (c : Config) (k : Nat) : (State.resetWith c k).fb.wf = true := rfl

/-! ### The bound -/

theorem below_write {m : Memory} {n a : Nat} (b : Byte) (ha : a < n) (h : m.below n = true) :
    (m.write a b).below n = true := by
  simp only [below, write, List.all_eq_true, decide_eq_true_eq] at h ⊢
  intro c hc
  rcases mem_insert hc with rfl | hc
  · exact ha
  · exact h c hc

theorem below_write16 {m : Memory} {n a : Nat} (v : Half) (ha : a + 1 < n) (h : m.below n = true) :
    (m.write16 a v).below n = true :=
  below_write _ ha (below_write _ (by omega) h)

/-! ### Big-endian reads -/

theorem toNat_append8 {w : Nat} (x : BitVec w) (y : Byte) : (x ++ y).toNat = x.toNat * 256 + y.toNat := by
  rw [BitVec.toNat_append, ← Nat.shiftLeft_add_eq_or_of_lt y.isLt, Nat.shiftLeft_eq]

theorem bigEndian_one (m : Memory) (a : Nat) : m.bigEndian a 1 = (m.read a).toNat := by
  simp [bigEndian]

theorem bigEndian_two (m : Memory) (a : Nat) : m.bigEndian a 2 = (Layout.u16 m a).toNat := by
  rw [Layout.u16, toNat_append8]; simp [bigEndian]

theorem bigEndian_two_bytes (m : Memory) (a : Nat) :
    m.bigEndian a 2 = (m.read a).toNat * 256 + (m.read (a + 1)).toNat := by
  simp [bigEndian]

theorem bigEndian_four (m : Memory) (a : Nat) : m.bigEndian a 4 = (Layout.u32 m a).toNat := by
  rw [Layout.u32, toNat_append8, toNat_append8, toNat_append8]; simp [bigEndian]

/-- A six-byte field is its first two bytes above its last four (rule R32). -/
theorem bigEndian_six (m : Memory) (a : Nat) :
    m.bigEndian a 6 = (Layout.u16 m a).toNat * 4294967296 + (Layout.u32 m (a + 2)).toNat := by
  rw [Layout.u16, Layout.u32, toNat_append8, toNat_append8, toNat_append8, toNat_append8]
  simp only [bigEndian, Nat.add_assoc, Nat.reduceAdd, Nat.add_zero]
  omega

end Memory

end Sys2Proof.Machine
end

