-- ==== Sys2Proof/Laws/Engine.lean ====
section
/-! SUPPORT. The checksum engine: the word sum from either end, its bound, what it depends on, and one pass of the
fold (spec/43_checksum.md rules R170 to R176). -/

namespace Sys2Proof.Machine

/-- A word is at most 0xFFFF. -/
theorem word_le (m : Memory) (a : Nat) : m.bigEndian a 2 ≤ 65535 := by
  rw [Memory.bigEndian_two]
  have := (Layout.u16 m a).isLt
  omega

/-- The word loop taken from the front. -/
theorem wordSum_front (m : Memory) (a k : Nat) :
    wordSum m a (k + 1) = m.bigEndian a 2 + wordSum m (a + 2) k := by
  induction k with
  | zero => simp [wordSum]
  | succ k ih =>
    rw [wordSum, ih, wordSum]
    have : a + 2 * (k + 1) = a + 2 + 2 * k := by omega
    rw [this]
    omega

/-- The word loop cut in two. -/
theorem wordSum_add (m : Memory) (a j k : Nat) :
    wordSum m a (j + k) = wordSum m a j + wordSum m (a + 2 * j) k := by
  induction k with
  | zero => simp [wordSum]
  | succ k ih =>
    rw [← Nat.add_assoc, wordSum, ih, wordSum]
    have : a + 2 * (j + k) = a + 2 * j + 2 * k := by omega
    rw [this]
    omega

theorem wordSum_le (m : Memory) (a k : Nat) : wordSum m a k ≤ k * 65535 := by
  induction k with
  | zero => simp [wordSum]
  | succ k ih =>
    have := word_le m (a + 2 * k)
    rw [wordSum]
    omega

/-- The word loop depends on the bytes it sums and on nothing else. -/
theorem wordSum_congr {m m' : Memory} {a k : Nat}
    (h : ∀ x, a ≤ x → x < a + 2 * k → m.read x = m'.read x) : wordSum m a k = wordSum m' a k := by
  induction k with
  | zero => rfl
  | succ k ih =>
    rw [wordSum, wordSum, ih (fun x h1 h2 => h x h1 (by omega)), Memory.bigEndian_two_bytes,
      Memory.bigEndian_two_bytes, h (a + 2 * k) (by omega) (by omega),
      h (a + 2 * k + 1) (by omega) (by omega)]

/-- `Sum16` depends on the bytes of its range and on nothing else. -/
theorem sum16_congr {m m' : Memory} {a n : Nat} (h : ∀ x, a ≤ x → x < a + n → m.read x = m'.read x) :
    sum16 m a n = sum16 m' a n := by
  unfold sum16
  rw [wordSum_congr (fun x h1 h2 => h x h1 (by omega))]
  split
  · rw [h (a + n - 1) (by omega) (by omega)]
  · rfl

/-- An even range is its words. -/
theorem sum16_even (m : Memory) (a : Nat) {n : Nat} (h : n % 2 = 0) : sum16 m a n = wordSum m a (n / 2) := by
  simp [sum16, h]

theorem sum16_two (m : Memory) (a : Nat) :
    sum16 m a 2 = (m.read a).toNat * 256 + (m.read (a + 1)).toNat := by
  rw [sum16_even m a (by decide), ← Memory.bigEndian_two_bytes]
  simp [wordSum]

/-- The two bytes of a two-byte store sum to the value stored. -/
theorem sum16_write16 (m : Memory) (a : Nat) (v : Half) : sum16 (m.write16 a v) a 2 = v.toNat := by
  rw [sum16_two, Memory.read_write16, Memory.read_write16]
  have := v.isLt
  simp [Nat.shiftRight_eq_div_pow]
  omega

/-! ### The pseudo-header (rule R171) -/

theorem pseudo_eq (src dst : Word) (p : Byte) (len : Nat) :
    pseudo src dst p len = src.toNat / 65536 + src.toNat % 65536 + dst.toNat / 65536 + dst.toNat % 65536
      + p.toNat + len := by
  have := src.isLt
  have := dst.isLt
  simp [pseudo, Nat.shiftRight_eq_div_pow]
  omega

/-- A supported protocol makes every accumulator positive (rule R175). -/
theorem pseudo_pos {src dst : Word} {p : Byte} {off len : Nat} (h : FieldOffset p off) :
    0 < pseudo src dst p len := by
  rw [pseudo_eq]
  rcases h with ⟨rfl, -⟩ | ⟨rfl, -⟩ <;> simp

/-! ### The fold (rule R172) -/

theorem foldLoop_zero (x : Nat) : foldLoop 0 x = x := rfl

theorem foldLoop_succ (k x : Nat) :
    foldLoop (k + 1) x = if x / 65536 ≠ 0 then foldLoop k (x % 65536 + x / 65536) else x := rfl

/-- One pass keeps the value modulo 65535 and keeps a positive value positive. -/
theorem fold_pass (x : Nat) :
    (x % 65536 + x / 65536) % 65535 = x % 65535 ∧ (0 < x → 0 < x % 65536 + x / 65536) := by
  omega

end Sys2Proof.Machine
end

