-- ==== Sys2Proof/Laws/Headers.lean ====
section
/-! SUPPORT. The cursor primitives and the four header decoders: what each step gives when it fits and where it
stops when it does not, in the terms of the layout tables (spec/20_memory.md rules R62 to R65,
spec/40_header_models.md rules R113 to R117). -/

namespace Sys2Proof.Machine

/-! ### The primitives -/

namespace RawFrame

theorem take_ok {f : RawFrame} {w cur : Nat} (stage : Stage) (h : cur + w / 8 ≤ f.flen) :
    f.take w stage cur = .ok (BitVec.ofNat w (f.fb.bigEndian cur (w / 8)), cur + w / 8) := by
  simp [take, memRead, Nat.not_lt.2 h]

theorem take_error {f : RawFrame} {w cur : Nat} (stage : Stage) (h : f.flen < cur + w / 8) :
    f.take w stage cur = .error { err := .truncated stage, cur := cur } := by
  simp [take, memRead, h]

theorem take8_ok {f : RawFrame} {cur : Nat} (stage : Stage) (h : cur + 1 ≤ f.flen) :
    f.take 8 stage cur = .ok (f.fb.read cur, cur + 1) := by
  rw [take_ok stage (by simpa using h)]; simp [Memory.bigEndian_one]

theorem take16_ok {f : RawFrame} {cur : Nat} (stage : Stage) (h : cur + 2 ≤ f.flen) :
    f.take 16 stage cur = .ok (Layout.u16 f.fb cur, cur + 2) := by
  rw [take_ok stage (by simpa using h)]; simp [Memory.bigEndian_two]

theorem take32_ok {f : RawFrame} {cur : Nat} (stage : Stage) (h : cur + 4 ≤ f.flen) :
    f.take 32 stage cur = .ok (Layout.u32 f.fb cur, cur + 4) := by
  rw [take_ok stage (by simpa using h)]; simp [Memory.bigEndian_four]

/-- A six-byte address is the pair of its first two and its last four bytes (rule R32). -/
theorem take48_ok {f : RawFrame} {cur : Nat} (stage : Stage) (h : cur + 6 ≤ f.flen) :
    f.take 48 stage cur = .ok (Layout.u16 f.fb cur ++ Layout.u32 f.fb (cur + 2), cur + 6) := by
  rw [take_ok stage (by simpa using h)]
  congr 2
  apply BitVec.eq_of_toNat_eq
  have hlt := (Layout.u16 f.fb cur ++ Layout.u32 f.fb (cur + 2)).isLt
  rw [BitVec.toNat_append, ← Nat.shiftLeft_add_eq_or_of_lt (Layout.u32 f.fb (cur + 2)).isLt,
    Nat.shiftLeft_eq] at hlt ⊢
  rw [BitVec.toNat_ofNat, Memory.bigEndian_six]
  omega

theorem slice_ok {f : RawFrame} {n cur : Nat} (stage : Stage) (h : cur + n ≤ f.flen) :
    f.slice n stage cur = .ok ({ off := BitVec.ofNat 16 cur, len := BitVec.ofNat 16 n }, cur + n) := by
  simp [slice, Nat.not_lt.2 h]

theorem slice_error {f : RawFrame} {n cur : Nat} (stage : Stage) (h : f.flen < cur + n) :
    f.slice n stage cur = .error { err := .truncated stage, cur := cur } := by
  simp [slice, h]

theorem optionsSlice_ok {f : RawFrame} {hlen cur : Nat} (stage : Stage) (h20 : 20 ≤ hlen)
    (h : cur + (hlen - 20) ≤ f.flen) :
    f.optionsSlice hlen stage cur =
      .ok ({ off := BitVec.ofNat 16 cur, len := BitVec.ofNat 16 (hlen - 20) }, cur + (hlen - 20)) := by
  simp [optionsSlice, minHlen, Nat.not_lt.2 h20, slice_ok stage h]

theorem optionsSlice_malformed {f : RawFrame} {hlen cur : Nat} (stage : Stage) (h : hlen < 20) :
    f.optionsSlice hlen stage cur = .error { err := .malformedLength stage, cur := cur } := by
  simp [optionsSlice, minHlen, h]

theorem optionsSlice_truncated {f : RawFrame} {hlen cur : Nat} (stage : Stage) (h20 : 20 ≤ hlen)
    (h : f.flen < cur + (hlen - 20)) :
    f.optionsSlice hlen stage cur = .error { err := .truncated stage, cur := cur } := by
  simp [optionsSlice, minHlen, Nat.not_lt.2 h20, slice_error stage h]

end RawFrame

/-! ### Sub-fields (rule R97) -/

theorem ipHlen_toNat (b : Byte) : (ipHlen b).toNat = b.toNat % 16 * 4 := by
  simp [ipHlen]
  omega

theorem tcpHlen_u16 (m : Memory) (a : Nat) :
    (tcpHlen (Layout.u16 m a)).toNat = (m.read a).toNat / 16 * 4 := by
  have h : (Layout.u16 m a).toNat = (m.read a).toNat * 256 + (m.read (a + 1)).toNat :=
    Memory.toNat_append8 _ _
  have h2 := (m.read (a + 1)).isLt
  have h1 := (m.read a).isLt
  simp [tcpHlen, h, Nat.shiftRight_eq_div_pow]
  omega

theorem ipHlen_layout (m : Memory) : (ipHlen (m.read 14)).toNat = Layout.ipHlen m := ipHlen_toNat _

theorem ipHlen_eq_ofNat (m : Memory) : ipHlen (m.read 14) = BitVec.ofNat 6 (Layout.ipHlen m) := by
  rw [← ipHlen_layout]; simp

theorem Layout.ipHlen_le (m : Memory) : Layout.ipHlen m ≤ 60 := by
  unfold Layout.ipHlen; omega

theorem Layout.tcpHlen_le (m : Memory) (t : Nat) : Layout.tcpHlen m t ≤ 60 := by
  have := (m.read (t + 12)).isLt
  unfold Layout.tcpHlen; omega

theorem tcpHlen_layout (m : Memory) (t : Nat) :
    (tcpHlen (Layout.u16 m (t + 12))).toNat = Layout.tcpHlen m t := tcpHlen_u16 _ _

theorem tcpHlen_eq_ofNat (m : Memory) (t : Nat) :
    tcpHlen (Layout.u16 m (t + 12)) = BitVec.ofNat 6 (Layout.tcpHlen m t) := by
  rw [← tcpHlen_layout]; simp

theorem ipVersion_eq_ofNat (b : Byte) : ipVersion b = BitVec.ofNat 4 (b.toNat / 16) := by
  apply BitVec.eq_of_toNat_eq
  simp [ipVersion, Nat.shiftRight_eq_div_pow]

theorem ipFlags_eq_ofNat (w : Half) : ipFlags w = BitVec.ofNat 3 (w.toNat / 8192) := by
  apply BitVec.eq_of_toNat_eq
  simp [ipFlags, Nat.shiftRight_eq_div_pow]

theorem ipFrag_eq_ofNat (w : Half) : ipFrag w = BitVec.ofNat 13 (w.toNat % 8192) := by
  apply BitVec.eq_of_toNat_eq
  simp [ipFrag]

theorem tcpFlags_eq_ofNat (w : Half) : tcpFlags w = BitVec.ofNat 12 (w.toNat % 4096) := by
  apply BitVec.eq_of_toNat_eq
  simp [tcpFlags]

/-! ### The decoders -/

/-- The two registers of a MAC address (rule R32). -/
theorem high_of_pair (x : Half) (y : Word) : (x ++ y).extractLsb' 32 16 = x := by
  apply BitVec.eq_of_toNat_eq
  rw [BitVec.extractLsb'_toNat, BitVec.toNat_append, ← Nat.shiftLeft_add_eq_or_of_lt y.isLt,
    Nat.shiftLeft_eq, Nat.shiftRight_eq_div_pow]
  have := x.isLt
  have := y.isLt
  omega

theorem low_of_pair (x : Half) (y : Word) : (x ++ y).extractLsb' 0 32 = y := by
  apply BitVec.eq_of_toNat_eq
  rw [BitVec.extractLsb'_toNat, BitVec.toNat_append, ← Nat.shiftLeft_add_eq_or_of_lt y.isLt,
    Nat.shiftLeft_eq, Nat.shiftRight_eq_div_pow]
  have := x.isLt
  have := y.isLt
  omega

open RawFrame in
/-- `DecodeEth()` on a frame that holds the header (rule R114). -/
theorem decodeEth_ok {f : RawFrame} (h : 14 ≤ f.flen) :
    decodeEth f 0 = .ok (Layout.eth f.fb, 14) := by
  simp (disch := omega) only [decodeEth, take48_ok, take16_ok, bind, Except.bind, pure, Except.pure,
    Nat.zero_add, Nat.reduceAdd]
  simp [Layout.eth, Layout.etype, high_of_pair, low_of_pair]

open RawFrame in
/-- `DecodeEth()` stops at the first field that does not fit (rule R114). -/
theorem decodeEth_error {f : RawFrame} {o n : Nat} (hm : (o, n) ∈ Layout.ethFields) (h1 : o ≤ f.flen)
    (h2 : f.flen < o + n) : decodeEth f 0 = .error { err := .truncated .eth, cur := o } := by
  have each : ∀ q ∈ Layout.ethFields, q.1 ≤ f.flen → f.flen < q.1 + q.2 →
      decodeEth f 0 = .error { err := .truncated .eth, cur := q.1 } := by
    simp only [Layout.ethFields, List.forall_mem_cons, List.not_mem_nil, false_implies, implies_true,
      and_true]
    and_intros <;> intro h1 h2 <;>
      simp (disch := omega) [decodeEth, take48_ok, take_error, bind, Except.bind]
  exact each (o, n) hm h1 h2

open RawFrame in
/-- The twenty fixed bytes of an IPv4 header, then the options step (rule R115). -/
theorem decodeIpv4_fixed {f : RawFrame} (h : 34 ≤ f.flen) :
    decodeIpv4 f 14 =
      match f.optionsSlice (Layout.ipHlen f.fb) .ipv4 34 with
      | .error e => .error e
      | .ok (opt, cur) => .ok ({ Layout.ip4 f.fb with opt := opt }, cur) := by
  simp (disch := omega) only [decodeIpv4, take8_ok, take16_ok, take32_ok, bind, Except.bind, pure,
    Except.pure, Nat.reduceAdd, ipHlen_layout]
  cases f.optionsSlice (Layout.ipHlen f.fb) .ipv4 34 with
  | error e => rfl
  | ok v =>
    simp [Layout.ip4, Layout.proto, ipVersion_eq_ofNat, ipHlen_eq_ofNat, ipFlags_eq_ofNat,
      ipFrag_eq_ofNat]

open RawFrame in
theorem decodeIpv4_ok {f : RawFrame} (h : 34 ≤ f.flen) (h20 : 20 ≤ Layout.ipHlen f.fb)
    (hf : 14 + Layout.ipHlen f.fb ≤ f.flen) :
    decodeIpv4 f 14 = .ok (Layout.ip4 f.fb, 14 + Layout.ipHlen f.fb) := by
  rw [decodeIpv4_fixed h, optionsSlice_ok .ipv4 h20 (by omega)]
  have : 34 + (Layout.ipHlen f.fb - 20) = 14 + Layout.ipHlen f.fb := by omega
  simp only [this]
  rfl

open RawFrame in
theorem decodeIpv4_malformed {f : RawFrame} (h : 34 ≤ f.flen) (h20 : Layout.ipHlen f.fb < 20) :
    decodeIpv4 f 14 = .error { err := .malformedLength .ipv4, cur := 34 } := by
  rw [decodeIpv4_fixed h, optionsSlice_malformed .ipv4 h20]

open RawFrame in
theorem decodeIpv4_options {f : RawFrame} (h : 34 ≤ f.flen) (h20 : 20 ≤ Layout.ipHlen f.fb)
    (hf : f.flen < 14 + Layout.ipHlen f.fb) :
    decodeIpv4 f 14 = .error { err := .truncated .ipv4, cur := 34 } := by
  rw [decodeIpv4_fixed h, optionsSlice_truncated .ipv4 h20 (by omega)]

open RawFrame in
theorem decodeIpv4_error {f : RawFrame} {o n : Nat} (hm : (o, n) ∈ Layout.ipFields) (h1 : 14 + o ≤ f.flen)
    (h2 : f.flen < 14 + o + n) : decodeIpv4 f 14 = .error { err := .truncated .ipv4, cur := 14 + o } := by
  have each : ∀ q ∈ Layout.ipFields, 14 + q.1 ≤ f.flen → f.flen < 14 + q.1 + q.2 →
      decodeIpv4 f 14 = .error { err := .truncated .ipv4, cur := 14 + q.1 } := by
    simp only [Layout.ipFields, List.forall_mem_cons, List.not_mem_nil, false_implies, implies_true,
      and_true]
    and_intros <;> intro h1 h2 <;>
      simp (disch := omega) [decodeIpv4, take8_ok, take16_ok, take32_ok, take_error, bind, Except.bind]
  exact each (o, n) hm h1 h2

open RawFrame in
/-- The twenty fixed bytes of a TCP header, then the options step (rule R116). -/
theorem decodeTcp_fixed {f : RawFrame} {t : Nat} (h : t + 20 ≤ f.flen) :
    decodeTcp f t =
      match f.optionsSlice (Layout.tcpHlen f.fb t) .tcp (t + 20) with
      | .error e => .error e
      | .ok (opt, cur) => .ok ({ Layout.tcp f.fb t with opt := opt }, cur) := by
  simp (disch := omega) only [decodeTcp, take16_ok, take32_ok, bind, Except.bind, pure, Except.pure,
    Nat.add_assoc, Nat.reduceAdd, tcpHlen_layout]
  cases f.optionsSlice (Layout.tcpHlen f.fb t) .tcp (t + 20) with
  | error e => rfl
  | ok v => simp [Layout.tcp, tcpHlen_eq_ofNat, tcpFlags_eq_ofNat]

open RawFrame in
theorem decodeTcp_ok {f : RawFrame} {t : Nat} (h : t + 20 ≤ f.flen) (h20 : 20 ≤ Layout.tcpHlen f.fb t)
    (hf : t + Layout.tcpHlen f.fb t ≤ f.flen) :
    decodeTcp f t = .ok (Layout.tcp f.fb t, t + Layout.tcpHlen f.fb t) := by
  rw [decodeTcp_fixed h, optionsSlice_ok .tcp h20 (by omega)]
  have : t + 20 + (Layout.tcpHlen f.fb t - 20) = t + Layout.tcpHlen f.fb t := by omega
  simp only [this]
  rfl

open RawFrame in
theorem decodeTcp_malformed {f : RawFrame} {t : Nat} (h : t + 20 ≤ f.flen)
    (h20 : Layout.tcpHlen f.fb t < 20) :
    decodeTcp f t = .error { err := .malformedLength .tcp, cur := t + 20 } := by
  rw [decodeTcp_fixed h, optionsSlice_malformed .tcp h20]

open RawFrame in
theorem decodeTcp_options {f : RawFrame} {t : Nat} (h : t + 20 ≤ f.flen) (h20 : 20 ≤ Layout.tcpHlen f.fb t)
    (hf : f.flen < t + Layout.tcpHlen f.fb t) :
    decodeTcp f t = .error { err := .truncated .tcp, cur := t + 20 } := by
  rw [decodeTcp_fixed h, optionsSlice_truncated .tcp h20 (by omega)]

open RawFrame in
theorem decodeTcp_error {f : RawFrame} {t o n : Nat} (hm : (o, n) ∈ Layout.tcpFields)
    (h1 : t + o ≤ f.flen) (h2 : f.flen < t + o + n) :
    decodeTcp f t = .error { err := .truncated .tcp, cur := t + o } := by
  have each : ∀ q ∈ Layout.tcpFields, t + q.1 ≤ f.flen → f.flen < t + q.1 + q.2 →
      decodeTcp f t = .error { err := .truncated .tcp, cur := t + q.1 } := by
    simp only [Layout.tcpFields, List.forall_mem_cons, List.not_mem_nil, false_implies, implies_true,
      and_true]
    and_intros <;> intro h1 h2 <;>
      simp (disch := omega) [decodeTcp, take16_ok, take32_ok, take_error, bind, Except.bind, Nat.add_assoc]
  exact each (o, n) hm h1 h2

open RawFrame in
theorem decodeUdp_ok {f : RawFrame} {t : Nat} (h : t + 8 ≤ f.flen) :
    decodeUdp f t = .ok (Layout.udp f.fb t, t + 8) := by
  simp (disch := omega) only [decodeUdp, take16_ok, bind, Except.bind, pure, Except.pure, Nat.add_assoc,
    Nat.reduceAdd, Layout.udp]

open RawFrame in
theorem decodeUdp_error {f : RawFrame} {t o n : Nat} (hm : (o, n) ∈ Layout.udpFields)
    (h1 : t + o ≤ f.flen) (h2 : f.flen < t + o + n) :
    decodeUdp f t = .error { err := .truncated .udp, cur := t + o } := by
  have each : ∀ q ∈ Layout.udpFields, t + q.1 ≤ f.flen → f.flen < t + q.1 + q.2 →
      decodeUdp f t = .error { err := .truncated .udp, cur := t + q.1 } := by
    simp only [Layout.udpFields, List.forall_mem_cons, List.not_mem_nil, false_implies, implies_true,
      and_true]
    and_intros <;> intro h1 h2 <;>
      simp (disch := omega) [decodeUdp, take16_ok, take_error, bind, Except.bind, Nat.add_assoc]
  exact each (o, n) hm h1 h2

/-! ### The first field that does not fit -/

theorem Layout.ethFields_cover {n : Nat} (h : n < 14) :
    ∃ o k, (o, k) ∈ Layout.ethFields ∧ o ≤ n ∧ n < o + k := by
  have : n < 6 ∨ (6 ≤ n ∧ n < 12) ∨ 12 ≤ n := by omega
  rcases this with h | h | h
  · exact ⟨0, 6, by simp [Layout.ethFields], by omega, by omega⟩
  · exact ⟨6, 6, by simp [Layout.ethFields], by omega, by omega⟩
  · exact ⟨12, 2, by simp [Layout.ethFields], by omega, by omega⟩

theorem Layout.ipFields_cover {n : Nat} (h1 : 14 ≤ n) (h2 : n < 34) :
    ∃ o k, (o, k) ∈ Layout.ipFields ∧ 14 + o ≤ n ∧ n < 14 + o + k := by
  obtain ⟨d, rfl⟩ : ∃ d, n = 14 + d := ⟨n - 14, by omega⟩
  have hd : d < 20 := by omega
  have : ∀ d < 20, ∃ p ∈ Layout.ipFields, p.1 ≤ d ∧ d < p.1 + p.2 := by decide
  obtain ⟨p, hp, h3, h4⟩ := this d hd
  exact ⟨p.1, p.2, hp, by omega, by omega⟩

theorem Layout.tcpFields_cover {n t : Nat} (h1 : t ≤ n) (h2 : n < t + 20) :
    ∃ o k, (o, k) ∈ Layout.tcpFields ∧ t + o ≤ n ∧ n < t + o + k := by
  obtain ⟨d, rfl⟩ : ∃ d, n = t + d := ⟨n - t, by omega⟩
  have hd : d < 20 := by omega
  have : ∀ d < 20, ∃ p ∈ Layout.tcpFields, p.1 ≤ d ∧ d < p.1 + p.2 := by decide
  obtain ⟨p, hp, h3, h4⟩ := this d hd
  exact ⟨p.1, p.2, hp, by omega, by omega⟩

theorem Layout.udpFields_cover {n t : Nat} (h1 : t ≤ n) (h2 : n < t + 8) :
    ∃ o k, (o, k) ∈ Layout.udpFields ∧ t + o ≤ n ∧ n < t + o + k := by
  obtain ⟨d, rfl⟩ : ∃ d, n = t + d := ⟨n - t, by omega⟩
  have hd : d < 8 := by omega
  have : ∀ d < 8, ∃ p ∈ Layout.udpFields, p.1 ≤ d ∧ d < p.1 + p.2 := by decide
  obtain ⟨p, hp, h3, h4⟩ := this d hd
  exact ⟨p.1, p.2, hp, by omega, by omega⟩

end Sys2Proof.Machine
end

