-- ==== Sys2Proof/Laws/State.lean ====
section
/-! SUPPORT. One lemma per field per update of the state, each true by `rfl` and a simp lemma, so that no
proof unfolds a record update. -/

namespace Sys2Proof.Machine.State


/-! ### `beginCommand` -/

@[simp] theorem beginCommand_cfg (s : State) : (s.beginCommand).cfg = s.cfg := rfl
@[simp] theorem beginCommand_fb (s : State) : (s.beginCommand).fb = s.fb := rfl
@[simp] theorem beginCommand_flen (s : State) : (s.beginCommand).flen = s.flen := rfl
@[simp] theorem beginCommand_cur (s : State) : (s.beginCommand).cur = s.cur := rfl
@[simp] theorem beginCommand_opSrc (s : State) : (s.beginCommand).opSrc = s.opSrc := rfl
@[simp] theorem beginCommand_opDst (s : State) : (s.beginCommand).opDst = s.opDst := rfl
@[simp] theorem beginCommand_opProto (s : State) : (s.beginCommand).opProto = s.opProto := rfl
@[simp] theorem beginCommand_opSeg (s : State) : (s.beginCommand).opSeg = s.opSeg := rfl
@[simp] theorem beginCommand_csum (s : State) : (s.beginCommand).csum = 0#16 := rfl
@[simp] theorem beginCommand_eth (s : State) : (s.beginCommand).eth = s.eth := rfl
@[simp] theorem beginCommand_ip4 (s : State) : (s.beginCommand).ip4 = s.ip4 := rfl
@[simp] theorem beginCommand_tcp (s : State) : (s.beginCommand).tcp = s.tcp := rfl
@[simp] theorem beginCommand_udp (s : State) : (s.beginCommand).udp = s.udp := rfl
@[simp] theorem beginCommand_payload (s : State) : (s.beginCommand).payload = s.payload := rfl
@[simp] theorem beginCommand_pending (s : State) : (s.beginCommand).pending = s.pending := rfl
@[simp] theorem beginCommand_reply (s : State) : (s.beginCommand).reply = s.reply := rfl
@[simp] theorem beginCommand_err (s : State) : (s.beginCommand).status.err = .ok := rfl
@[simp] theorem beginCommand_stage (s : State) : (s.beginCommand).status.stage = .none := rfl
@[simp] theorem beginCommand_view (s : State) : (s.beginCommand).status.view = s.status.view := rfl
@[simp] theorem beginCommand_l3tag (s : State) :
    (s.beginCommand).status.l3tag = s.status.l3tag := rfl
@[simp] theorem beginCommand_l4tag (s : State) :
    (s.beginCommand).status.l4tag = s.status.l4tag := rfl
@[simp] theorem beginCommand_csumV (s : State) : (s.beginCommand).status.csumV = false := rfl
@[simp] theorem beginCommand_vfyV (s : State) : (s.beginCommand).status.vfyV = false := rfl
@[simp] theorem beginCommand_vfy (s : State) : (s.beginCommand).status.vfy = false := rfl

/-! ### `dropView` -/

@[simp] theorem dropView_cfg (s : State) : (s.dropView).cfg = s.cfg := rfl
@[simp] theorem dropView_fb (s : State) : (s.dropView).fb = s.fb := rfl
@[simp] theorem dropView_flen (s : State) : (s.dropView).flen = s.flen := rfl
@[simp] theorem dropView_cur (s : State) : (s.dropView).cur = s.cur := rfl
@[simp] theorem dropView_opSrc (s : State) : (s.dropView).opSrc = s.opSrc := rfl
@[simp] theorem dropView_opDst (s : State) : (s.dropView).opDst = s.opDst := rfl
@[simp] theorem dropView_opProto (s : State) : (s.dropView).opProto = s.opProto := rfl
@[simp] theorem dropView_opSeg (s : State) : (s.dropView).opSeg = s.opSeg := rfl
@[simp] theorem dropView_csum (s : State) : (s.dropView).csum = s.csum := rfl
@[simp] theorem dropView_eth (s : State) : (s.dropView).eth = EthRegs.zero := rfl
@[simp] theorem dropView_ip4 (s : State) : (s.dropView).ip4 = Ip4Regs.zero := rfl
@[simp] theorem dropView_tcp (s : State) : (s.dropView).tcp = TcpRegs.zero := rfl
@[simp] theorem dropView_udp (s : State) : (s.dropView).udp = UdpRegs.zero := rfl
@[simp] theorem dropView_payload (s : State) : (s.dropView).payload = Slice.zero := rfl
@[simp] theorem dropView_pending (s : State) : (s.dropView).pending = s.pending := rfl
@[simp] theorem dropView_reply (s : State) : (s.dropView).reply = s.reply := rfl
@[simp] theorem dropView_err (s : State) : (s.dropView).status.err = s.status.err := rfl
@[simp] theorem dropView_stage (s : State) : (s.dropView).status.stage = s.status.stage := rfl
@[simp] theorem dropView_view (s : State) : (s.dropView).status.view = .none := rfl
@[simp] theorem dropView_l3tag (s : State) : (s.dropView).status.l3tag = .unknown := rfl
@[simp] theorem dropView_l4tag (s : State) : (s.dropView).status.l4tag = .unknown := rfl
@[simp] theorem dropView_csumV (s : State) : (s.dropView).status.csumV = s.status.csumV := rfl
@[simp] theorem dropView_vfyV (s : State) : (s.dropView).status.vfyV = s.status.vfyV := rfl
@[simp] theorem dropView_vfy (s : State) : (s.dropView).status.vfy = s.status.vfy := rfl

/-! ### `raise` -/

@[simp] theorem raise_cfg (e : Error) (s : State) : (s.raise e).cfg = s.cfg := rfl
@[simp] theorem raise_fb (e : Error) (s : State) : (s.raise e).fb = s.fb := rfl
@[simp] theorem raise_flen (e : Error) (s : State) : (s.raise e).flen = s.flen := rfl
@[simp] theorem raise_cur (e : Error) (s : State) : (s.raise e).cur = s.cur := rfl
@[simp] theorem raise_opSrc (e : Error) (s : State) : (s.raise e).opSrc = s.opSrc := rfl
@[simp] theorem raise_opDst (e : Error) (s : State) : (s.raise e).opDst = s.opDst := rfl
@[simp] theorem raise_opProto (e : Error) (s : State) : (s.raise e).opProto = s.opProto := rfl
@[simp] theorem raise_opSeg (e : Error) (s : State) : (s.raise e).opSeg = s.opSeg := rfl
@[simp] theorem raise_csum (e : Error) (s : State) : (s.raise e).csum = s.csum := rfl
@[simp] theorem raise_eth (e : Error) (s : State) : (s.raise e).eth = s.eth := rfl
@[simp] theorem raise_ip4 (e : Error) (s : State) : (s.raise e).ip4 = s.ip4 := rfl
@[simp] theorem raise_tcp (e : Error) (s : State) : (s.raise e).tcp = s.tcp := rfl
@[simp] theorem raise_udp (e : Error) (s : State) : (s.raise e).udp = s.udp := rfl
@[simp] theorem raise_payload (e : Error) (s : State) : (s.raise e).payload = s.payload := rfl
@[simp] theorem raise_pending (e : Error) (s : State) : (s.raise e).pending = s.pending := rfl
@[simp] theorem raise_reply (e : Error) (s : State) : (s.raise e).reply = s.reply := rfl
@[simp] theorem raise_err (e : Error) (s : State) : (s.raise e).status.err = e.code := rfl
@[simp] theorem raise_stage (e : Error) (s : State) : (s.raise e).status.stage = e.stage := rfl
@[simp] theorem raise_view (e : Error) (s : State) : (s.raise e).status.view = s.status.view := rfl
@[simp] theorem raise_l3tag (e : Error) (s : State) :
    (s.raise e).status.l3tag = s.status.l3tag := rfl
@[simp] theorem raise_l4tag (e : Error) (s : State) :
    (s.raise e).status.l4tag = s.status.l4tag := rfl
@[simp] theorem raise_csumV (e : Error) (s : State) :
    (s.raise e).status.csumV = s.status.csumV := rfl
@[simp] theorem raise_vfyV (e : Error) (s : State) : (s.raise e).status.vfyV = s.status.vfyV := rfl
@[simp] theorem raise_vfy (e : Error) (s : State) : (s.raise e).status.vfy = s.status.vfy := rfl

/-! ### `raiseAt` -/

@[simp] theorem raiseAt_cfg (d : DecodeFailure) (s : State) : (s.raiseAt d).cfg = s.cfg := rfl
@[simp] theorem raiseAt_fb (d : DecodeFailure) (s : State) : (s.raiseAt d).fb = s.fb := rfl
@[simp] theorem raiseAt_flen (d : DecodeFailure) (s : State) : (s.raiseAt d).flen = s.flen := rfl
@[simp] theorem raiseAt_cur (d : DecodeFailure) (s : State) :
    (s.raiseAt d).cur = BitVec.ofNat 16 d.cur := rfl
@[simp] theorem raiseAt_opSrc (d : DecodeFailure) (s : State) : (s.raiseAt d).opSrc = s.opSrc := rfl
@[simp] theorem raiseAt_opDst (d : DecodeFailure) (s : State) : (s.raiseAt d).opDst = s.opDst := rfl
@[simp] theorem raiseAt_opProto (d : DecodeFailure) (s : State) :
    (s.raiseAt d).opProto = s.opProto := rfl
@[simp] theorem raiseAt_opSeg (d : DecodeFailure) (s : State) : (s.raiseAt d).opSeg = s.opSeg := rfl
@[simp] theorem raiseAt_csum (d : DecodeFailure) (s : State) : (s.raiseAt d).csum = s.csum := rfl
@[simp] theorem raiseAt_eth (d : DecodeFailure) (s : State) : (s.raiseAt d).eth = s.eth := rfl
@[simp] theorem raiseAt_ip4 (d : DecodeFailure) (s : State) : (s.raiseAt d).ip4 = s.ip4 := rfl
@[simp] theorem raiseAt_tcp (d : DecodeFailure) (s : State) : (s.raiseAt d).tcp = s.tcp := rfl
@[simp] theorem raiseAt_udp (d : DecodeFailure) (s : State) : (s.raiseAt d).udp = s.udp := rfl
@[simp] theorem raiseAt_payload (d : DecodeFailure) (s : State) :
    (s.raiseAt d).payload = s.payload := rfl
@[simp] theorem raiseAt_pending (d : DecodeFailure) (s : State) :
    (s.raiseAt d).pending = s.pending := rfl
@[simp] theorem raiseAt_reply (d : DecodeFailure) (s : State) : (s.raiseAt d).reply = s.reply := rfl
@[simp] theorem raiseAt_err (d : DecodeFailure) (s : State) :
    (s.raiseAt d).status.err = d.err.code := rfl
@[simp] theorem raiseAt_stage (d : DecodeFailure) (s : State) :
    (s.raiseAt d).status.stage = d.err.stage := rfl
@[simp] theorem raiseAt_view (d : DecodeFailure) (s : State) :
    (s.raiseAt d).status.view = s.status.view := rfl
@[simp] theorem raiseAt_l3tag (d : DecodeFailure) (s : State) :
    (s.raiseAt d).status.l3tag = s.status.l3tag := rfl
@[simp] theorem raiseAt_l4tag (d : DecodeFailure) (s : State) :
    (s.raiseAt d).status.l4tag = s.status.l4tag := rfl
@[simp] theorem raiseAt_csumV (d : DecodeFailure) (s : State) :
    (s.raiseAt d).status.csumV = s.status.csumV := rfl
@[simp] theorem raiseAt_vfyV (d : DecodeFailure) (s : State) :
    (s.raiseAt d).status.vfyV = s.status.vfyV := rfl
@[simp] theorem raiseAt_vfy (d : DecodeFailure) (s : State) :
    (s.raiseAt d).status.vfy = s.status.vfy := rfl

/-! ### `deliverChecksum` -/

@[simp] theorem deliverChecksum_cfg (c : Half) (s : State) :
    (s.deliverChecksum c).cfg = s.cfg := rfl
@[simp] theorem deliverChecksum_fb (c : Half) (s : State) : (s.deliverChecksum c).fb = s.fb := rfl
@[simp] theorem deliverChecksum_flen (c : Half) (s : State) :
    (s.deliverChecksum c).flen = s.flen := rfl
@[simp] theorem deliverChecksum_cur (c : Half) (s : State) :
    (s.deliverChecksum c).cur = s.cur := rfl
@[simp] theorem deliverChecksum_opSrc (c : Half) (s : State) :
    (s.deliverChecksum c).opSrc = s.opSrc := rfl
@[simp] theorem deliverChecksum_opDst (c : Half) (s : State) :
    (s.deliverChecksum c).opDst = s.opDst := rfl
@[simp] theorem deliverChecksum_opProto (c : Half) (s : State) :
    (s.deliverChecksum c).opProto = s.opProto := rfl
@[simp] theorem deliverChecksum_opSeg (c : Half) (s : State) :
    (s.deliverChecksum c).opSeg = s.opSeg := rfl
@[simp] theorem deliverChecksum_csum (c : Half) (s : State) : (s.deliverChecksum c).csum = c := rfl
@[simp] theorem deliverChecksum_eth (c : Half) (s : State) :
    (s.deliverChecksum c).eth = s.eth := rfl
@[simp] theorem deliverChecksum_ip4 (c : Half) (s : State) :
    (s.deliverChecksum c).ip4 = s.ip4 := rfl
@[simp] theorem deliverChecksum_tcp (c : Half) (s : State) :
    (s.deliverChecksum c).tcp = s.tcp := rfl
@[simp] theorem deliverChecksum_udp (c : Half) (s : State) :
    (s.deliverChecksum c).udp = s.udp := rfl
@[simp] theorem deliverChecksum_payload (c : Half) (s : State) :
    (s.deliverChecksum c).payload = s.payload := rfl
@[simp] theorem deliverChecksum_pending (c : Half) (s : State) :
    (s.deliverChecksum c).pending = s.pending := rfl
@[simp] theorem deliverChecksum_reply (c : Half) (s : State) :
    (s.deliverChecksum c).reply = s.reply := rfl
@[simp] theorem deliverChecksum_err (c : Half) (s : State) :
    (s.deliverChecksum c).status.err = s.status.err := rfl
@[simp] theorem deliverChecksum_stage (c : Half) (s : State) :
    (s.deliverChecksum c).status.stage = s.status.stage := rfl
@[simp] theorem deliverChecksum_view (c : Half) (s : State) :
    (s.deliverChecksum c).status.view = s.status.view := rfl
@[simp] theorem deliverChecksum_l3tag (c : Half) (s : State) :
    (s.deliverChecksum c).status.l3tag = s.status.l3tag := rfl
@[simp] theorem deliverChecksum_l4tag (c : Half) (s : State) :
    (s.deliverChecksum c).status.l4tag = s.status.l4tag := rfl
@[simp] theorem deliverChecksum_csumV (c : Half) (s : State) :
    (s.deliverChecksum c).status.csumV = true := rfl
@[simp] theorem deliverChecksum_vfyV (c : Half) (s : State) :
    (s.deliverChecksum c).status.vfyV = s.status.vfyV := rfl
@[simp] theorem deliverChecksum_vfy (c : Half) (s : State) :
    (s.deliverChecksum c).status.vfy = s.status.vfy := rfl

/-! ### `deliverVerdict` -/

@[simp] theorem deliverVerdict_cfg (v : Bool) (s : State) : (s.deliverVerdict v).cfg = s.cfg := rfl
@[simp] theorem deliverVerdict_fb (v : Bool) (s : State) : (s.deliverVerdict v).fb = s.fb := rfl
@[simp] theorem deliverVerdict_flen (v : Bool) (s : State) :
    (s.deliverVerdict v).flen = s.flen := rfl
@[simp] theorem deliverVerdict_cur (v : Bool) (s : State) : (s.deliverVerdict v).cur = s.cur := rfl
@[simp] theorem deliverVerdict_opSrc (v : Bool) (s : State) :
    (s.deliverVerdict v).opSrc = s.opSrc := rfl
@[simp] theorem deliverVerdict_opDst (v : Bool) (s : State) :
    (s.deliverVerdict v).opDst = s.opDst := rfl
@[simp] theorem deliverVerdict_opProto (v : Bool) (s : State) :
    (s.deliverVerdict v).opProto = s.opProto := rfl
@[simp] theorem deliverVerdict_opSeg (v : Bool) (s : State) :
    (s.deliverVerdict v).opSeg = s.opSeg := rfl
@[simp] theorem deliverVerdict_csum (v : Bool) (s : State) :
    (s.deliverVerdict v).csum = s.csum := rfl
@[simp] theorem deliverVerdict_eth (v : Bool) (s : State) : (s.deliverVerdict v).eth = s.eth := rfl
@[simp] theorem deliverVerdict_ip4 (v : Bool) (s : State) : (s.deliverVerdict v).ip4 = s.ip4 := rfl
@[simp] theorem deliverVerdict_tcp (v : Bool) (s : State) : (s.deliverVerdict v).tcp = s.tcp := rfl
@[simp] theorem deliverVerdict_udp (v : Bool) (s : State) : (s.deliverVerdict v).udp = s.udp := rfl
@[simp] theorem deliverVerdict_payload (v : Bool) (s : State) :
    (s.deliverVerdict v).payload = s.payload := rfl
@[simp] theorem deliverVerdict_pending (v : Bool) (s : State) :
    (s.deliverVerdict v).pending = s.pending := rfl
@[simp] theorem deliverVerdict_reply (v : Bool) (s : State) :
    (s.deliverVerdict v).reply = s.reply := rfl
@[simp] theorem deliverVerdict_err (v : Bool) (s : State) :
    (s.deliverVerdict v).status.err = s.status.err := rfl
@[simp] theorem deliverVerdict_stage (v : Bool) (s : State) :
    (s.deliverVerdict v).status.stage = s.status.stage := rfl
@[simp] theorem deliverVerdict_view (v : Bool) (s : State) :
    (s.deliverVerdict v).status.view = s.status.view := rfl
@[simp] theorem deliverVerdict_l3tag (v : Bool) (s : State) :
    (s.deliverVerdict v).status.l3tag = s.status.l3tag := rfl
@[simp] theorem deliverVerdict_l4tag (v : Bool) (s : State) :
    (s.deliverVerdict v).status.l4tag = s.status.l4tag := rfl
@[simp] theorem deliverVerdict_csumV (v : Bool) (s : State) :
    (s.deliverVerdict v).status.csumV = s.status.csumV := rfl
@[simp] theorem deliverVerdict_vfyV (v : Bool) (s : State) :
    (s.deliverVerdict v).status.vfyV = true := rfl
@[simp] theorem deliverVerdict_vfy (v : Bool) (s : State) :
    (s.deliverVerdict v).status.vfy = v := rfl

/-! ### `memWrite` -/

@[simp] theorem memWrite_cfg (a : Nat) (v : Half) (s : State) : (s.memWrite a v).cfg = s.cfg := rfl
@[simp] theorem memWrite_fb (a : Nat) (v : Half) (s : State) :
    (s.memWrite a v).fb = s.fb.write16 a v := rfl
@[simp] theorem memWrite_flen (a : Nat) (v : Half) (s : State) :
    (s.memWrite a v).flen = s.flen := rfl
@[simp] theorem memWrite_cur (a : Nat) (v : Half) (s : State) : (s.memWrite a v).cur = s.cur := rfl
@[simp] theorem memWrite_status (a : Nat) (v : Half) (s : State) :
    (s.memWrite a v).status = s.status := rfl
@[simp] theorem memWrite_opSrc (a : Nat) (v : Half) (s : State) :
    (s.memWrite a v).opSrc = s.opSrc := rfl
@[simp] theorem memWrite_opDst (a : Nat) (v : Half) (s : State) :
    (s.memWrite a v).opDst = s.opDst := rfl
@[simp] theorem memWrite_opProto (a : Nat) (v : Half) (s : State) :
    (s.memWrite a v).opProto = s.opProto := rfl
@[simp] theorem memWrite_opSeg (a : Nat) (v : Half) (s : State) :
    (s.memWrite a v).opSeg = s.opSeg := rfl
@[simp] theorem memWrite_csum (a : Nat) (v : Half) (s : State) :
    (s.memWrite a v).csum = s.csum := rfl
@[simp] theorem memWrite_eth (a : Nat) (v : Half) (s : State) : (s.memWrite a v).eth = s.eth := rfl
@[simp] theorem memWrite_ip4 (a : Nat) (v : Half) (s : State) : (s.memWrite a v).ip4 = s.ip4 := rfl
@[simp] theorem memWrite_tcp (a : Nat) (v : Half) (s : State) : (s.memWrite a v).tcp = s.tcp := rfl
@[simp] theorem memWrite_udp (a : Nat) (v : Half) (s : State) : (s.memWrite a v).udp = s.udp := rfl
@[simp] theorem memWrite_payload (a : Nat) (v : Half) (s : State) :
    (s.memWrite a v).payload = s.payload := rfl
@[simp] theorem memWrite_pending (a : Nat) (v : Half) (s : State) :
    (s.memWrite a v).pending = s.pending := rfl
@[simp] theorem memWrite_reply (a : Nat) (v : Half) (s : State) :
    (s.memWrite a v).reply = s.reply := rfl

/-! ### `withScalars` -/

@[simp] theorem withScalars_cfg (s : State) (e : ErrCode) (g : Stage) (cv vv v : Bool) (c : Half) :
    (s.withScalars e g cv vv v c).cfg = s.cfg := rfl
@[simp] theorem withScalars_fb (s : State) (e : ErrCode) (g : Stage) (cv vv v : Bool) (c : Half) :
    (s.withScalars e g cv vv v c).fb = s.fb := rfl
@[simp] theorem withScalars_flen (s : State) (e : ErrCode) (g : Stage) (cv vv v : Bool) (c : Half) :
    (s.withScalars e g cv vv v c).flen = s.flen := rfl
@[simp] theorem withScalars_cur (s : State) (e : ErrCode) (g : Stage) (cv vv v : Bool) (c : Half) :
    (s.withScalars e g cv vv v c).cur = s.cur := rfl
@[simp] theorem withScalars_opSrc (s : State) (e : ErrCode) (g : Stage) (cv vv v : Bool) (c : Half) :
    (s.withScalars e g cv vv v c).opSrc = s.opSrc := rfl
@[simp] theorem withScalars_opDst (s : State) (e : ErrCode) (g : Stage) (cv vv v : Bool) (c : Half) :
    (s.withScalars e g cv vv v c).opDst = s.opDst := rfl
@[simp] theorem withScalars_opProto (s : State) (e : ErrCode) (g : Stage) (cv vv v : Bool) (c : Half) :
    (s.withScalars e g cv vv v c).opProto = s.opProto := rfl
@[simp] theorem withScalars_opSeg (s : State) (e : ErrCode) (g : Stage) (cv vv v : Bool) (c : Half) :
    (s.withScalars e g cv vv v c).opSeg = s.opSeg := rfl
@[simp] theorem withScalars_csum (s : State) (e : ErrCode) (g : Stage) (cv vv v : Bool) (c : Half) :
    (s.withScalars e g cv vv v c).csum = c := rfl
@[simp] theorem withScalars_eth (s : State) (e : ErrCode) (g : Stage) (cv vv v : Bool) (c : Half) :
    (s.withScalars e g cv vv v c).eth = s.eth := rfl
@[simp] theorem withScalars_ip4 (s : State) (e : ErrCode) (g : Stage) (cv vv v : Bool) (c : Half) :
    (s.withScalars e g cv vv v c).ip4 = s.ip4 := rfl
@[simp] theorem withScalars_tcp (s : State) (e : ErrCode) (g : Stage) (cv vv v : Bool) (c : Half) :
    (s.withScalars e g cv vv v c).tcp = s.tcp := rfl
@[simp] theorem withScalars_udp (s : State) (e : ErrCode) (g : Stage) (cv vv v : Bool) (c : Half) :
    (s.withScalars e g cv vv v c).udp = s.udp := rfl
@[simp] theorem withScalars_payload (s : State) (e : ErrCode) (g : Stage) (cv vv v : Bool) (c : Half) :
    (s.withScalars e g cv vv v c).payload = s.payload := rfl
@[simp] theorem withScalars_pending (s : State) (e : ErrCode) (g : Stage) (cv vv v : Bool) (c : Half) :
    (s.withScalars e g cv vv v c).pending = s.pending := rfl
@[simp] theorem withScalars_reply (s : State) (e : ErrCode) (g : Stage) (cv vv v : Bool) (c : Half) :
    (s.withScalars e g cv vv v c).reply = s.reply := rfl
@[simp] theorem withScalars_err (s : State) (e : ErrCode) (g : Stage) (cv vv v : Bool) (c : Half) :
    (s.withScalars e g cv vv v c).status.err = e := rfl
@[simp] theorem withScalars_stage (s : State) (e : ErrCode) (g : Stage) (cv vv v : Bool) (c : Half) :
    (s.withScalars e g cv vv v c).status.stage = g := rfl
@[simp] theorem withScalars_view (s : State) (e : ErrCode) (g : Stage) (cv vv v : Bool) (c : Half) :
    (s.withScalars e g cv vv v c).status.view = s.status.view := rfl
@[simp] theorem withScalars_l3tag (s : State) (e : ErrCode) (g : Stage) (cv vv v : Bool) (c : Half) :
    (s.withScalars e g cv vv v c).status.l3tag = s.status.l3tag := rfl
@[simp] theorem withScalars_l4tag (s : State) (e : ErrCode) (g : Stage) (cv vv v : Bool) (c : Half) :
    (s.withScalars e g cv vv v c).status.l4tag = s.status.l4tag := rfl
@[simp] theorem withScalars_csumV (s : State) (e : ErrCode) (g : Stage) (cv vv v : Bool) (c : Half) :
    (s.withScalars e g cv vv v c).status.csumV = cv := rfl
@[simp] theorem withScalars_vfyV (s : State) (e : ErrCode) (g : Stage) (cv vv v : Bool) (c : Half) :
    (s.withScalars e g cv vv v c).status.vfyV = vv := rfl
@[simp] theorem withScalars_vfy (s : State) (e : ErrCode) (g : Stage) (cv vv v : Bool) (c : Half) :
    (s.withScalars e g cv vv v c).status.vfy = v := rfl

/-! ### `withoutView` -/

@[simp] theorem withoutView_cfg (s : State) : (s.withoutView).cfg = s.cfg := rfl
@[simp] theorem withoutView_fb (s : State) : (s.withoutView).fb = s.fb := rfl
@[simp] theorem withoutView_flen (s : State) : (s.withoutView).flen = s.flen := rfl
@[simp] theorem withoutView_cur (s : State) : (s.withoutView).cur = s.cur := rfl
@[simp] theorem withoutView_opSrc (s : State) : (s.withoutView).opSrc = s.opSrc := rfl
@[simp] theorem withoutView_opDst (s : State) : (s.withoutView).opDst = s.opDst := rfl
@[simp] theorem withoutView_opProto (s : State) : (s.withoutView).opProto = s.opProto := rfl
@[simp] theorem withoutView_opSeg (s : State) : (s.withoutView).opSeg = s.opSeg := rfl
@[simp] theorem withoutView_csum (s : State) : (s.withoutView).csum = s.csum := rfl
@[simp] theorem withoutView_eth (s : State) : (s.withoutView).eth = EthRegs.zero := rfl
@[simp] theorem withoutView_ip4 (s : State) : (s.withoutView).ip4 = Ip4Regs.zero := rfl
@[simp] theorem withoutView_tcp (s : State) : (s.withoutView).tcp = TcpRegs.zero := rfl
@[simp] theorem withoutView_udp (s : State) : (s.withoutView).udp = UdpRegs.zero := rfl
@[simp] theorem withoutView_payload (s : State) : (s.withoutView).payload = Slice.zero := rfl
@[simp] theorem withoutView_pending (s : State) : (s.withoutView).pending = s.pending := rfl
@[simp] theorem withoutView_reply (s : State) : (s.withoutView).reply = s.reply := rfl
@[simp] theorem withoutView_err (s : State) : (s.withoutView).status.err = s.status.err := rfl
@[simp] theorem withoutView_stage (s : State) : (s.withoutView).status.stage = s.status.stage := rfl
@[simp] theorem withoutView_view (s : State) : (s.withoutView).status.view = .none := rfl
@[simp] theorem withoutView_l3tag (s : State) : (s.withoutView).status.l3tag = .unknown := rfl
@[simp] theorem withoutView_l4tag (s : State) : (s.withoutView).status.l4tag = .unknown := rfl
@[simp] theorem withoutView_csumV (s : State) : (s.withoutView).status.csumV = s.status.csumV := rfl
@[simp] theorem withoutView_vfyV (s : State) : (s.withoutView).status.vfyV = s.status.vfyV := rfl
@[simp] theorem withoutView_vfy (s : State) : (s.withoutView).status.vfy = s.status.vfy := rfl

/-! ### The frame -/

@[simp] theorem frame_fb (s : State) : s.frame.fb = s.fb := rfl
@[simp] theorem frame_flen (s : State) : s.frame.flen = s.flen.toNat := rfl

/-- The model's updates are the statements' updates. -/
theorem dropView_eq_withoutView (s : State) : s.dropView = s.withoutView := rfl

theorem beginCommand_eq_withScalars (s : State) :
    s.beginCommand = s.withScalars .ok .none false false false 0#16 := rfl

theorem raise_beginCommand (e : Error) (s : State) :
    s.beginCommand.raise e = s.withScalars e.code e.stage false false false 0#16 := rfl

theorem deliverChecksum_beginCommand (c : Half) (s : State) :
    s.beginCommand.deliverChecksum c = s.withScalars .ok .none true false false c := rfl

theorem deliverVerdict_beginCommand (v : Bool) (s : State) :
    s.beginCommand.deliverVerdict v = s.withScalars .ok .none false true v 0#16 := rfl

theorem raise_deliverVerdict_beginCommand (e : Error) (v : Bool) (s : State) :
    (s.beginCommand.deliverVerdict v).raise e = s.withScalars e.code e.stage false true v 0#16 := rfl

/-- Scalar updates replace one another. -/
theorem withScalars_withScalars (s : State) (e e' : ErrCode) (g g' : Stage) (cv vv v cv' vv' v' : Bool)
    (c c' : Half) :
    (s.withScalars e g cv vv v c).withScalars e' g' cv' vv' v' c' = s.withScalars e' g' cv' vv' v' c' := rfl

theorem withoutView_withoutView (s : State) : s.withoutView.withoutView = s.withoutView := rfl

end Sys2Proof.Machine.State
end

