-- ==== Sys2Proof/Laws/Frames.lean ====
section
/-! SUPPORT. The two composite decodes: what they give on a frame that fits and how an error of a header decoder
becomes theirs (spec/42_frame_commands.md rules R152 to R156). -/

namespace Sys2Proof.Machine

/-- The Layer3 a frame that fits decodes to. -/
def Layout.layer3 (m : Memory) : Layer3 :=
  if Layout.etype m = 0x0800#16 then .ipv4 (Layout.ip4 m) else .unknown

/-- The Layer4 a frame that fits decodes to. -/
def Layout.layer4 (m : Memory) : Layer4 :=
  if Layout.isIpv4With m 6#8 then .tcp (Layout.tcp m (14 + Layout.ipHlen m))
  else if Layout.isIpv4With m 17#8 then .udp (Layout.udp m (14 + Layout.ipHlen m))
  else .unknown

theorem eth_etype (m : Memory) : (Layout.eth m).etype = Layout.etype m := rfl

theorem decodeLayer3_ok {s : State} (h : Layout.parsecFits s) :
    decodeLayer3 s.frame (Layout.etype s.fb) 14 = .ok (Layout.layer3 s.fb, Layout.l3End s.fb) := by
  unfold decodeLayer3 selectL3 ethertypeIpv4 Layout.layer3 Layout.l3End
  by_cases he : Layout.etype s.fb = 0x0800#16
  · obtain ⟨h1, h2, h3⟩ := h.2 he
    simp only [he, if_true]
    rw [decodeIpv4_ok (f := s.frame) h1 h2 h3]
    rfl
  · simp [he]

/-- PARSEC's decode on a frame that fits (rule R153). -/
theorem decodeChecksumFrame_ok {s : State} (h : Layout.parsecFits s) :
    decodeChecksumFrame s.frame =
      .ok ({ eth := Layout.eth s.fb, l3 := Layout.layer3 s.fb
             remain := Layout.tail (Layout.l3End s.fb) s.flen.toNat }, s.flen.toNat) := by
  unfold decodeChecksumFrame
  rw [decodeEth_ok (f := s.frame) h.1]
  simp only [bind, Except.bind, eth_etype, State.frame_fb]
  rw [decodeLayer3_ok h]
  rfl

theorem layer3_key (m : Memory) :
    (Layout.layer3 m).key = if Layout.etype m = 0x0800#16 then some (Layout.proto m) else none := by
  unfold Layout.layer3
  split <;> rfl

theorem decodeLayer4_ok {s : State} (h : Layout.parseFits s) :
    decodeLayer4 s.frame (Layout.layer3 s.fb).key (Layout.l3End s.fb)
      = .ok (Layout.layer4 s.fb, Layout.l4End s.fb) := by
  rw [layer3_key]
  unfold Layout.layer4 Layout.l4End
  by_cases he : Layout.etype s.fb = 0x0800#16
  · have hend : Layout.l3End s.fb = 14 + Layout.ipHlen s.fb := by simp [Layout.l3End, he]
    rw [hend]
    simp only [he, Layout.isIpv4With, if_true, true_and, decodeLayer4, selectL4, protoTcp, protoUdp]
    by_cases h6 : Layout.proto s.fb = 6#8
    · obtain ⟨h1, h2, h3⟩ := h.2.1 ⟨he, h6⟩
      simp only [h6, if_true]
      rw [decodeTcp_ok (f := s.frame) (by simp only [State.frame_flen]; omega) h2 h3]
      rfl
    · by_cases h17 : Layout.proto s.fb = 17#8
      · have h1 := h.2.2 ⟨he, h17⟩
        simp only [h17, if_true]
        rw [decodeUdp_ok (f := s.frame) (by simp only [State.frame_flen]; omega)]
        rfl
      · simp [h6, h17]
  · simp [he, Layout.isIpv4With, decodeLayer4, selectL4]

/-- PARSE's decode on a frame that fits (rule R152). -/
theorem decodeFrame_ok {s : State} (h : Layout.parseFits s) :
    decodeFrame s.frame =
      .ok ({ eth := Layout.eth s.fb, l3 := Layout.layer3 s.fb, l4 := Layout.layer4 s.fb
             payload := Layout.tail (Layout.l4End s.fb) s.flen.toNat }, s.flen.toNat) := by
  unfold decodeFrame
  rw [decodeEth_ok (f := s.frame) h.1.1]
  simp only [bind, Except.bind, eth_etype, State.frame_fb]
  rw [decodeLayer3_ok h.1]
  simp only []
  rw [decodeLayer4_ok h]
  rfl

/-! ### Errors of a header decoder are errors of the composite decode -/

theorem decode_eth_error {f : RawFrame} {e : DecodeFailure} (h : decodeEth f 0 = .error e) :
    decodeFrame f = .error e ∧ decodeChecksumFrame f = .error e := by
  unfold decodeFrame decodeChecksumFrame
  rw [h]
  exact ⟨rfl, rfl⟩

theorem decode_ipv4_error {s : State} {e : DecodeFailure} (h14 : 14 ≤ s.flen.toNat)
    (he : Layout.etype s.fb = 0x0800#16) (h : decodeIpv4 s.frame 14 = .error e) :
    decodeFrame s.frame = .error e ∧ decodeChecksumFrame s.frame = .error e := by
  unfold decodeFrame decodeChecksumFrame
  rw [decodeEth_ok (f := s.frame) h14]
  simp only [bind, Except.bind, eth_etype, State.frame_fb]
  have : decodeLayer3 s.frame (Layout.etype s.fb) 14 = .error e := by
    simp [decodeLayer3, selectL3, ethertypeIpv4, he, h, bind, Except.bind]
  rw [this]
  exact ⟨rfl, rfl⟩

theorem decode_layer4_error {s : State} {e : DecodeFailure} (h : Layout.parsecFits s)
    (h4 : decodeLayer4 s.frame (Layout.layer3 s.fb).key (Layout.l3End s.fb) = .error e) :
    decodeFrame s.frame = .error e := by
  unfold decodeFrame
  rw [decodeEth_ok (f := s.frame) h.1]
  simp only [bind, Except.bind, eth_etype, State.frame_fb]
  rw [decodeLayer3_ok h]
  simp only []
  rw [h4]

theorem decode_tcp_error {s : State} {e : DecodeFailure} (h : Layout.parsecFits s)
    (h6 : Layout.isIpv4With s.fb 6#8) (ht : decodeTcp s.frame (14 + Layout.ipHlen s.fb) = .error e) :
    decodeFrame s.frame = .error e := by
  refine decode_layer4_error h ?_
  rw [layer3_key]
  simp [Layout.l3End, h6.1, h6.2, decodeLayer4, selectL4, protoTcp, ht, bind, Except.bind]

theorem decode_udp_error {s : State} {e : DecodeFailure} (h : Layout.parsecFits s)
    (h17 : Layout.isIpv4With s.fb 17#8) (ht : decodeUdp s.frame (14 + Layout.ipHlen s.fb) = .error e) :
    decodeFrame s.frame = .error e := by
  refine decode_layer4_error h ?_
  rw [layer3_key]
  simp [Layout.l3End, h17.1, h17.2, decodeLayer4, selectL4, protoTcp, protoUdp, ht, bind, Except.bind]

/-! ### Every decode ends in one of the ways the rules name -/

/-- How a decode of PARSEC can fail (rules R211, R212). -/
def ParsecFailure (d : DecodeFailure) : Prop :=
  d.err = .truncated .eth ∨ d.err = .truncated .ipv4 ∨ d.err = .malformedLength .ipv4

/-- How a decode of PARSE can fail (rules R211, R212). -/
def ParseFailure (d : DecodeFailure) : Prop :=
  ParsecFailure d ∨ d.err = .truncated .tcp ∨ d.err = .malformedLength .tcp ∨ d.err = .truncated .udp

theorem decode_cases_of_not_parsecFits {s : State} (h : ¬ Layout.parsecFits s) :
    ∃ d, decodeFrame s.frame = .error d ∧ decodeChecksumFrame s.frame = .error d ∧ ParsecFailure d ∧
      d.cur ≤ s.flen.toNat := by
  by_cases h14 : s.flen.toNat < 14
  · obtain ⟨o, k, hm, h1, h2⟩ := Layout.ethFields_cover h14
    have hd := decode_eth_error (decodeEth_error (f := s.frame) hm h1 h2)
    exact ⟨_, hd.1, hd.2, .inl rfl, h1⟩
  · have h14 : 14 ≤ s.flen.toNat := by omega
    have he : Layout.etype s.fb = 0x0800#16 := by
      by_contra hne
      exact h ⟨h14, fun h' => absurd h' hne⟩
    by_cases h34 : s.flen.toNat < 34
    · obtain ⟨o, k, hm, h1, h2⟩ := Layout.ipFields_cover h14 h34
      have hd := decode_ipv4_error h14 he (decodeIpv4_error (f := s.frame) hm h1 h2)
      exact ⟨_, hd.1, hd.2, .inr (.inl rfl), h1⟩
    · have h34 : 34 ≤ s.flen.toNat := by omega
      by_cases h20 : Layout.ipHlen s.fb < 20
      · have hd := decode_ipv4_error h14 he (decodeIpv4_malformed (f := s.frame) h34 h20)
        exact ⟨_, hd.1, hd.2, .inr (.inr rfl), h34⟩
      · have hlt : s.flen.toNat < 14 + Layout.ipHlen s.fb := by
          by_contra hge
          exact h ⟨h14, fun _ => ⟨h34, by omega, by omega⟩⟩
        have hd := decode_ipv4_error h14 he
          (decodeIpv4_options (f := s.frame) h34 (by simpa using h20) hlt)
        exact ⟨_, hd.1, hd.2, .inr (.inl rfl), h34⟩

theorem decode_cases_of_not_parseFits {s : State} (h : ¬ Layout.parseFits s) :
    ∃ d, decodeFrame s.frame = .error d ∧ ParseFailure d ∧ d.cur ≤ s.flen.toNat := by
  by_cases hc : Layout.parsecFits s
  · by_cases h6 : Layout.isIpv4With s.fb 6#8
    · have h17 : ¬ Layout.isIpv4With s.fb 17#8 := by
        rintro ⟨-, h17⟩
        rw [h6.2] at h17
        exact absurd h17 (by decide)
      obtain ⟨-, h20, hend⟩ := hc.2 h6.1
      by_cases h34 : s.flen.toNat < 14 + Layout.ipHlen s.fb + 20
      · obtain ⟨o, k, hm, h1, h2⟩ := Layout.tcpFields_cover hend h34
        exact ⟨_, decode_tcp_error hc h6 (decodeTcp_error (f := s.frame) hm h1 h2),
          .inr (.inl rfl), h1⟩
      · have h34 : 14 + Layout.ipHlen s.fb + 20 ≤ s.flen.toNat := by omega
        by_cases ht : Layout.tcpHlen s.fb (14 + Layout.ipHlen s.fb) < 20
        · exact ⟨_, decode_tcp_error hc h6 (decodeTcp_malformed (f := s.frame) h34 ht),
            .inr (.inr (.inl rfl)), h34⟩
        · have hlt : s.flen.toNat
              < 14 + Layout.ipHlen s.fb + Layout.tcpHlen s.fb (14 + Layout.ipHlen s.fb) := by
            by_contra hge
            exact h ⟨hc, fun _ => ⟨by omega, by omega, by omega⟩, fun h' => absurd h' h17⟩
          exact ⟨_, decode_tcp_error hc h6
              (decodeTcp_options (f := s.frame) h34 (by simpa using ht) hlt),
            .inr (.inl rfl), h34⟩
    · have h17 : Layout.isIpv4With s.fb 17#8 := by
        by_contra h17
        exact h ⟨hc, fun h' => absurd h' h6, fun h' => absurd h' h17⟩
      obtain ⟨-, h20, hend⟩ := hc.2 h17.1
      have h8 : s.flen.toNat < 14 + Layout.ipHlen s.fb + 8 := by
        by_contra hge
        exact h ⟨hc, fun h' => absurd h' h6, fun _ => by omega⟩
      obtain ⟨o, k, hm, h1, h2⟩ := Layout.udpFields_cover hend h8
      exact ⟨_, decode_udp_error hc h17 (decodeUdp_error (f := s.frame) hm h1 h2),
        .inr (.inr (.inr rfl)), h1⟩
  · obtain ⟨d, h1, -, h2, h3⟩ := decode_cases_of_not_parsecFits hc
    exact ⟨d, h1, .inl h2, h3⟩

end Sys2Proof.Machine
end

