-- ==== Sys2Proof/Laws/Exec.lean ====
section
/-! SUPPORT. One inversion lemma per meaning: every way its command can end, said once. Later proofs cite these and
do not unfold a meaning. -/

namespace Sys2Proof.Machine

theorem beginCommand_dropView_frame (s : State) : s.beginCommand.dropView.frame = s.frame := rfl

/-- A PARSE whose decode fails (rule R154). -/
theorem execParse_of_error {s : State} {d : DecodeFailure} (h : decodeFrame s.frame = .error d) :
    exec .parse s = .next (s.beginCommand.dropView.raiseAt d) := by
  simp [exec, execParse, beginCommand_dropView_frame, h]

/-- A PARSE whose decode succeeds (rule R152). -/
theorem execParse_of_ok {s : State} {d : DecodedFrame} {c : Nat} (h : decodeFrame s.frame = .ok (d, c)) :
    exec .parse s = .next (s.beginCommand.dropView.commitDecoded d c) := by
  simp [exec, execParse, beginCommand_dropView_frame, h]

/-- A PARSEC whose decode fails (rule R154). -/
theorem execParsec_of_error {s : State} {d : DecodeFailure} (h : decodeChecksumFrame s.frame = .error d) :
    exec .parsec s = .next (s.beginCommand.dropView.raiseAt d) := by
  simp [exec, execParsec, beginCommand_dropView_frame, h]

/-- A PARSEC whose decode succeeds (rule R153). -/
theorem execParsec_of_ok {s : State} {d : ChecksumFrame} {c : Nat}
    (h : decodeChecksumFrame s.frame = .ok (d, c)) :
    exec .parsec s = .next (s.beginCommand.dropView.commitChecksumFrame d c) := by
  simp [exec, execParsec, beginCommand_dropView_frame, h]

/-- Every way PARSE can end. -/
theorem exec_parse_cases {s t : State} (h : exec .parse s = .next t) :
    (∃ d, decodeFrame s.frame = .error d ∧ t = s.beginCommand.dropView.raiseAt d) ∨
    (∃ d c, decodeFrame s.frame = .ok (d, c) ∧ t = s.beginCommand.dropView.commitDecoded d c) := by
  cases hd : decodeFrame s.frame with
  | error d => rw [execParse_of_error hd] at h; cases h; exact .inl ⟨d, rfl, rfl⟩
  | ok p => obtain ⟨d, c⟩ := p; rw [execParse_of_ok hd] at h; cases h; exact .inr ⟨d, c, rfl, rfl⟩

/-- Every way PARSEC can end. -/
theorem exec_parsec_cases {s t : State} (h : exec .parsec s = .next t) :
    (∃ d, decodeChecksumFrame s.frame = .error d ∧ t = s.beginCommand.dropView.raiseAt d) ∨
    (∃ d c, decodeChecksumFrame s.frame = .ok (d, c) ∧
      t = s.beginCommand.dropView.commitChecksumFrame d c) := by
  cases hd : decodeChecksumFrame s.frame with
  | error d => rw [execParsec_of_error hd] at h; cases h; exact .inl ⟨d, rfl, rfl⟩
  | ok p => obtain ⟨d, c⟩ := p; rw [execParsec_of_ok hd] at h; cases h; exact .inr ⟨d, c, rfl, rfl⟩

/-! ### The field offset and the engine's own errors (rules R173, R174) -/

theorem csumOff_of_field {p : Byte} {off : Nat} (h : FieldOffset p off) : csumOff p = some off := by
  rcases h with ⟨rfl, rfl⟩ | ⟨rfl, rfl⟩ <;> decide

theorem field_of_csumOff {p : Byte} {off : Nat} (h : csumOff p = some off) : FieldOffset p off := by
  unfold csumOff protoTcp protoUdp csumOffTcp csumOffUdp at h
  split at h
  · exact .inl ⟨‹_›, by simpa using h.symm⟩
  · split at h
    · exact .inr ⟨‹_›, by simpa using h.symm⟩
    · cases h

theorem csumOff_of_unsupported {p : Byte} (h : Unsupported p) : csumOff p = none := by
  simp [csumOff, protoTcp, protoUdp, h.1, h.2]

theorem unsupported_of_csumOff {p : Byte} (h : csumOff p = none) : Unsupported p := by
  constructor <;> (rintro rfl; revert h; decide)

theorem supported_eq_false {p : Byte} : supported p = false ↔ Unsupported p := by
  constructor
  · intro h
    apply unsupported_of_csumOff
    simpa [supported, Option.isSome_eq_false_iff, Option.isNone_iff_eq_none] using h
  · intro h
    simp [supported, csumOff_of_unsupported h]

theorem supported_of_field {p : Byte} {off : Nat} (h : FieldOffset p off) : supported p = true := by
  simp [supported, csumOff_of_field h]

theorem field_of_supported {p : Byte} (h : supported p = true) : ∃ off, FieldOffset p off := by
  obtain ⟨off, ho⟩ := Option.isSome_iff_exists.1 h
  exact ⟨off, field_of_csumOff ho⟩

theorem checksum_short {m : Memory} {x : EngineArgs} {off : Nat} (h : FieldOffset x.proto off)
    (hl : x.seg.len.toNat < off + 2) : checksum m x = .error (.truncated .seg) := by
  simp [checksum, csumOff_of_field h, hl]

theorem checksum_ok {m : Memory} {x : EngineArgs} {off : Nat} (h : FieldOffset x.proto off)
    (hl : off + 2 ≤ x.seg.len.toNat) : checksum m x = .ok (complementFold (checksumAcc m x off)) := by
  simp [checksum, csumOff_of_field h, Nat.not_lt.2 hl]

/-! ### The checksum commands -/

/-- Every way CKSUM can end (rule R178). -/
theorem exec_cksum_cases {s t : State} (h : exec .cksum s = .next t) :
    (s.status.view ≠ .checksum ∧ t = s.beginCommand.raise .noView) ∨
    (s.status.view = .checksum ∧ s.viewUnsupported = true ∧
      t = s.beginCommand.raise .unsupportedProtocol) ∨
    (s.status.view = .checksum ∧ s.viewUnsupported = false ∧
      ((∃ e, checksum s.fb s.viewArgs = .error e ∧ t = s.beginCommand.raise e) ∨
       (∃ c, checksum s.fb s.viewArgs = .ok c ∧ t = s.beginCommand.deliverChecksum c))) := by
  have hu : s.beginCommand.viewUnsupported = s.viewUnsupported := rfl
  have ha : s.beginCommand.viewArgs = s.viewArgs := rfl
  simp only [exec, execCksum, State.beginCommand_view, State.beginCommand_fb, hu, ha] at h
  split at h
  · cases h; exact .inl ⟨‹_›, rfl⟩
  · rename_i hv
    split at h
    · cases h; exact .inr (.inl ⟨not_not.1 hv, ‹_›, rfl⟩)
    · rename_i hs
      refine .inr (.inr ⟨not_not.1 hv, by simpa using hs, ?_⟩)
      split at h <;> cases h
      · exact .inl ⟨_, ‹_›, rfl⟩
      · exact .inr ⟨_, ‹_›, rfl⟩

/-- Every way VERIFY can end (rule R179). -/
theorem exec_verify_cases {s t : State} (h : exec .verify s = .next t) :
    (s.status.view ≠ .checksum ∧ t = s.beginCommand.raise .noView) ∨
    (s.status.view = .checksum ∧ s.viewUnsupported = true ∧
      t = (s.beginCommand.deliverVerdict false).raise .unsupportedProtocol) ∨
    (s.status.view = .checksum ∧ s.viewUnsupported = false ∧
      t = s.beginCommand.deliverVerdict (verdict s.fb s.viewArgs)) := by
  have hu : s.beginCommand.viewUnsupported = s.viewUnsupported := rfl
  have ha : s.beginCommand.viewArgs = s.viewArgs := rfl
  simp only [exec, execVerify, State.beginCommand_view, State.beginCommand_fb, hu, ha] at h
  split at h
  · cases h; exact .inl ⟨‹_›, rfl⟩
  · rename_i hv
    split at h
    · cases h; exact .inr (.inl ⟨not_not.1 hv, ‹_›, rfl⟩)
    · rename_i hs
      cases h
      exact .inr (.inr ⟨not_not.1 hv, by simpa using hs, rfl⟩)

/-- Every way CSUMR can end (rule R180). -/
theorem exec_csumr_cases {s t : State} (h : exec .csumr s = .next t) :
    (supported s.opProto = false ∧ t = s.beginCommand.raise .unsupportedProtocol) ∨
    (supported s.opProto = true ∧ s.windowOutside = true ∧ t = s.beginCommand.raise (.truncated .seg)) ∨
    (supported s.opProto = true ∧ s.windowOutside = false ∧
      ((∃ e, checksum s.fb s.hostArgs = .error e ∧ t = s.beginCommand.raise e) ∨
       (∃ c, checksum s.fb s.hostArgs = .ok c ∧ t = s.beginCommand.deliverChecksum c))) := by
  have hu : s.beginCommand.windowOutside = s.windowOutside := rfl
  have ha : s.beginCommand.hostArgs = s.hostArgs := rfl
  simp only [exec, execCsumr, State.beginCommand_opProto, State.beginCommand_fb, hu, ha,
    Bool.not_eq_true'] at h
  split at h
  · cases h; exact .inl ⟨‹_›, rfl⟩
  · rename_i hp
    have hp : supported s.opProto = true := by simpa using hp
    split at h
    · cases h; exact .inr (.inl ⟨hp, ‹_›, rfl⟩)
    · rename_i hs
      refine .inr (.inr ⟨hp, by simpa using hs, ?_⟩)
      split at h <;> cases h
      · exact .inl ⟨_, ‹_›, rfl⟩
      · exact .inr ⟨_, ‹_›, rfl⟩

/-- Every way VERIFYR can end (rule R181). -/
theorem exec_verifyr_cases {s t : State} (h : exec .verifyr s = .next t) :
    (supported s.opProto = false ∧ t = (s.beginCommand.deliverVerdict false).raise .unsupportedProtocol) ∨
    (supported s.opProto = true ∧ s.windowOutside = true ∧ t = s.beginCommand.raise (.truncated .seg)) ∨
    (supported s.opProto = true ∧ s.windowOutside = false ∧
      t = s.beginCommand.deliverVerdict (verdict s.fb s.hostArgs)) := by
  have hu : s.beginCommand.windowOutside = s.windowOutside := rfl
  have ha : s.beginCommand.hostArgs = s.hostArgs := rfl
  simp only [exec, execVerifyr, State.beginCommand_opProto, State.beginCommand_fb, hu, ha,
    Bool.not_eq_true'] at h
  split at h
  · cases h; exact .inl ⟨‹_›, rfl⟩
  · rename_i hp
    have hp : supported s.opProto = true := by simpa using hp
    split at h
    · cases h; exact .inr (.inl ⟨hp, ‹_›, rfl⟩)
    · rename_i hs
      cases h
      exact .inr (.inr ⟨hp, by simpa using hs, rfl⟩)

/-! ### PATCH -/

/-- What flag C's plan can be (rules R200, R203). -/
theorem patchPlan_cases (s : State) (c : Bool) :
    (c = false ∧ s.patchPlan c = .ok none) ∨
    (c = true ∧ Unsupported s.ip4.proto ∧ s.patchPlan c = .error .unsupportedProtocol) ∨
    (∃ off, c = true ∧ FieldOffset s.ip4.proto off ∧ s.payload.len.toNat < off + 2 ∧
      s.patchPlan c = .error (.truncated .seg)) ∨
    (∃ off, c = true ∧ FieldOffset s.ip4.proto off ∧ off + 2 ≤ s.payload.len.toNat ∧
      s.patchPlan c = .ok (some (off, complementFold (checksumAcc s.fb s.viewArgs off)))) := by
  cases c with
  | false => exact .inl ⟨rfl, rfl⟩
  | true =>
    right
    cases hp : csumOff s.ip4.proto with
    | none => exact .inl ⟨rfl, unsupported_of_csumOff hp, by simp [State.patchPlan, hp]⟩
    | some off =>
      have hf := field_of_csumOff hp
      right
      by_cases hl : s.payload.len.toNat < off + 2
      · refine .inl ⟨off, rfl, hf, hl, ?_⟩
        simp [State.patchPlan, hp, checksum_short (m := s.fb) (x := s.viewArgs) hf hl]
      · have hl : off + 2 ≤ s.payload.len.toNat := by omega
        refine .inr ⟨off, rfl, hf, hl, ?_⟩
        simp [State.patchPlan, hp, checksum_ok (m := s.fb) (x := s.viewArgs) hf hl]

/-- Every way PATCH can end (rule R200). -/
theorem exec_patch_cases {s t : State} {c l : Bool} (h : exec (.patch c l) s = .next t) :
    (s.status.view ≠ .checksum ∧ t = s.beginCommand.raise .noView) ∨
    (s.status.view = .checksum ∧ c = false ∧ l = false ∧ t = s.beginCommand) ∨
    (s.status.view = .checksum ∧ (c = true ∨ l = true) ∧ s.status.l3tag ≠ .ipv4 ∧
      t = s.beginCommand.raise .unsupportedProtocol) ∨
    (s.status.view = .checksum ∧ (c = true ∨ l = true) ∧ s.status.l3tag = .ipv4 ∧
      ((∃ e, s.patchPlan c = .error e ∧ t = s.beginCommand.raise e) ∨
       (∃ plan, s.patchPlan c = .ok plan ∧ t = s.beginCommand.commitPatch plan l))) := by
  have hp : s.beginCommand.patchPlan c = s.patchPlan c := rfl
  simp only [exec, execPatch, State.beginCommand_view, State.beginCommand_l3tag, hp] at h
  split at h
  · cases h; exact .inl ⟨‹_›, rfl⟩
  · rename_i hv
    have hv := not_not.1 hv
    split at h
    · rename_i hn
      cases h
      simp only [Bool.and_eq_true, Bool.not_eq_true'] at hn
      exact .inr (.inl ⟨hv, hn.1, hn.2, rfl⟩)
    · rename_i hn
      have hn : c = true ∨ l = true := by
        cases c <;> cases l <;> simp at hn ⊢
      split at h
      · cases h; exact .inr (.inr (.inl ⟨hv, hn, ‹_›, rfl⟩))
      · rename_i h3
        refine .inr (.inr (.inr ⟨hv, hn, not_not.1 h3, ?_⟩))
        split at h <;> cases h
        · exact .inl ⟨_, ‹_›, rfl⟩
        · exact .inr ⟨_, ‹_›, rfl⟩

/-- Every command has a next state (rule R221). -/
theorem exec_next (i : Instr) (s : State) : ∃ t, exec i s = .next t := by
  cases i with
  | nop => exact ⟨_, rfl⟩
  | clr => exact ⟨_, rfl⟩
  | parse =>
    cases hd : decodeFrame s.frame with
    | error d => exact ⟨_, execParse_of_error hd⟩
    | ok p => exact ⟨_, execParse_of_ok hd⟩
  | parsec =>
    cases hd : decodeChecksumFrame s.frame with
    | error d => exact ⟨_, execParsec_of_error hd⟩
    | ok p => exact ⟨_, execParsec_of_ok hd⟩
  | cksum => unfold exec execCksum; dsimp only; split; · exact ⟨_, rfl⟩
             split; · exact ⟨_, rfl⟩
             split <;> exact ⟨_, rfl⟩
  | verify => unfold exec execVerify; dsimp only; split; · exact ⟨_, rfl⟩
              split <;> exact ⟨_, rfl⟩
  | csumr => unfold exec execCsumr; dsimp only; split; · exact ⟨_, rfl⟩
             split; · exact ⟨_, rfl⟩
             split <;> exact ⟨_, rfl⟩
  | verifyr => unfold exec execVerifyr; dsimp only; split; · exact ⟨_, rfl⟩
               split <;> exact ⟨_, rfl⟩
  | patch c l => unfold exec execPatch; dsimp only; split; · exact ⟨_, rfl⟩
                 split; · exact ⟨_, rfl⟩
                 split; · exact ⟨_, rfl⟩
                 split <;> exact ⟨_, rfl⟩

/-! ### The commit of PATCH, field by field -/

@[simp] theorem commitPatch_flen (p : Option (Nat × Half)) (l : Bool) (s : State) :
    (s.commitPatch p l).flen = s.flen := by cases p <;> cases l <;> rfl
@[simp] theorem commitPatch_cfg (p : Option (Nat × Half)) (l : Bool) (s : State) :
    (s.commitPatch p l).cfg = s.cfg := by cases p <;> cases l <;> rfl
@[simp] theorem commitPatch_cur (p : Option (Nat × Half)) (l : Bool) (s : State) :
    (s.commitPatch p l).cur = s.cur := by cases p <;> cases l <;> rfl
@[simp] theorem commitPatch_opSrc (p : Option (Nat × Half)) (l : Bool) (s : State) :
    (s.commitPatch p l).opSrc = s.opSrc := by cases p <;> cases l <;> rfl
@[simp] theorem commitPatch_opDst (p : Option (Nat × Half)) (l : Bool) (s : State) :
    (s.commitPatch p l).opDst = s.opDst := by cases p <;> cases l <;> rfl
@[simp] theorem commitPatch_opProto (p : Option (Nat × Half)) (l : Bool) (s : State) :
    (s.commitPatch p l).opProto = s.opProto := by cases p <;> cases l <;> rfl
@[simp] theorem commitPatch_opSeg (p : Option (Nat × Half)) (l : Bool) (s : State) :
    (s.commitPatch p l).opSeg = s.opSeg := by cases p <;> cases l <;> rfl
@[simp] theorem commitPatch_pending (p : Option (Nat × Half)) (l : Bool) (s : State) :
    (s.commitPatch p l).pending = s.pending := by cases p <;> cases l <;> rfl
@[simp] theorem commitPatch_reply (p : Option (Nat × Half)) (l : Bool) (s : State) :
    (s.commitPatch p l).reply = s.reply := by cases p <;> cases l <;> rfl
@[simp] theorem commitPatch_err (p : Option (Nat × Half)) (l : Bool) (s : State) :
    (s.commitPatch p l).status.err = s.status.err := by cases p <;> cases l <;> rfl
@[simp] theorem commitPatch_view (p : Option (Nat × Half)) (l : Bool) (s : State) :
    (s.commitPatch p l).status.view = .none := by cases p <;> cases l <;> rfl

/-- The buffer after the commit of PATCH (rules R201, R202). -/
theorem commitPatch_fb (p : Option (Nat × Half)) (l : Bool) (s : State) :
    (s.commitPatch p l).fb =
      let m := match p with
        | none => s.fb
        | some (off, v) => s.fb.write16 (s.csumFieldAddr off) v
      if l then m.write16 16 s.patchedTotalLength else m := by
  cases p <;> cases l <;> rfl

end Sys2Proof.Machine
end

