-- ==== Sys2Proof/Laws/Host.lean ====
section
/-! SUPPORT. The host transactions: the register map read backwards, what a transaction other than a write of CMD
and reset can do, and the step taken apart (spec/10_state.md rule R22, spec/20_memory.md rules R69, R70). -/

namespace Sys2Proof.Machine

/-- The register a number names has that number (rule R22). -/
theorem num_of_ofNum {n : RegNum} {r : RegName} (h : RegName.ofNum n = some r) : r.num = n := by
  simpa using List.find?_some h

/-- Every assigned register is found under its number (rule R22). -/
theorem ofNum_num (r : RegName) : RegName.ofNum r.num = some r := by cases r <;> rfl

/-- A step with a transaction to serve serves it. -/
theorem step_cons {s : State} {input : HostInput} {rest : List HostInput} (h : s.pending = input :: rest) :
    step s = serve input { s with pending := rest } := by
  simp [step, State.transact, h]

/-- A write of CMD executes the word (rule R92). -/
theorem serve_command (w : Word) (s : State) :
    serve (.write 0x00#6 w) s = execWord w { s with reply := .nothing } := rfl

/-- Every effect a register write other than of CMD can have: FLEN drops the view, and all that another
number changes is an operand register (rules R25, R27 to R30, R70). -/
theorem hostWrite_cases (n : RegNum) (v : Word) (s : State) :
    (n = 0x02#6 ∧ s.hostWrite n v = s.writeFlen v) ∨
    (n ≠ 0x02#6 ∧ ∃ a b c d,
      s.hostWrite n v = { s with opSrc := a, opDst := b, opProto := c, opSeg := d }) := by
  by_cases h2 : n = 0x02#6
  · subst h2
    exact .inl ⟨rfl, rfl⟩
  · refine .inr ⟨h2, ?_⟩
    unfold State.hostWrite
    split
    · rename_i hr
      exact absurd (num_of_ofNum hr).symm h2
    all_goals exact ⟨_, _, _, _, rfl⟩

/-- Every effect a transaction other than a write of CMD and reset can have (rules R69, R70). -/
theorem serve_cases {s t : State} {input : HostInput} (h : serve input s = .next t)
    (hr : input ≠ .reset) (hw : ∀ w, input ≠ .write 0x00#6 w) :
    ∃ rep,
      t = { s with reply := rep } ∨
      (∃ a b, input = .fbWrite a b ∧ a.toNat < s.cfg.fbBytes ∧
        t = { s.withoutView with fb := s.fb.write a.toNat b, reply := rep }) ∨
      (∃ v, input = .write 0x02#6 v ∧ t = { s.writeFlen v with reply := rep }) ∨
      (∃ a b c d, t = { s with opSrc := a, opDst := b, opProto := c, opSeg := d, reply := rep }) := by
  cases input with
  | read n => cases h; exact ⟨_, .inl rfl⟩
  | reset => exact absurd rfl hr
  | fbRead a => cases h; exact ⟨_, .inl rfl⟩
  | fbWrite a b =>
    cases h
    refine ⟨.nothing, ?_⟩
    unfold State.hostFBWrite
    by_cases hl : a.toNat < s.cfg.fbBytes
    · exact .inr (.inl ⟨a, b, rfl, hl, by rw [if_pos hl]; rfl⟩)
    · exact .inl (by rw [if_neg hl])
  | write n v =>
    have hn : n ≠ RegName.CMD.num := by
      intro h0
      exact hw v (by rw [h0]; rfl)
    simp only [serve, if_neg hn] at h
    cases h
    refine ⟨.nothing, ?_⟩
    rcases hostWrite_cases n v { s with reply := .nothing } with ⟨rfl, h⟩ | ⟨-, a, b, c, d, h⟩
    · exact .inr (.inr (.inl ⟨v, rfl, h⟩))
    · exact .inr (.inr (.inr ⟨a, b, c, d, h⟩))

end Sys2Proof.Machine
end

