-- ==== Sys2Proof/Laws/PerInstr.lean ====
section
/-! SUPPORT. Per command: its word passes each check of WellFormed.lean, and no bit of the word stands outside the
operation code and the two flags (spec/30_encoding.md rules R90, R91, R94). -/

namespace Sys2Proof.Laws.EncodeLegal

/-- The fields of a command's word are its fields, and they are legal. -/
def Statement (i : Instr) : Prop :=
  fieldsOf (encode i) = i.fields ∧ i.fields.legal = true ∧ (encode i).toNat < 1024

theorem nop : Statement .nop := by unfold Statement; decide
theorem clr : Statement .clr := by unfold Statement; decide
theorem parse : Statement .parse := by unfold Statement; decide
theorem parsec : Statement .parsec := by unfold Statement; decide
theorem cksum : Statement .cksum := by unfold Statement; decide
theorem verify : Statement .verify := by unfold Statement; decide
theorem csumr : Statement .csumr := by unfold Statement; decide
theorem verifyr : Statement .verifyr := by unfold Statement; decide
theorem patch (c l : Bool) : Statement (.patch c l) := by cases c <;> cases l <;> (unfold Statement; decide)

end Sys2Proof.Laws.EncodeLegal
end

