-- ==== Sys2Proof/Tests/Slice0.lean ====
section
/-! SUPPORT. The model's own tests: the WellFormed smoke, decoding of words written out from spec/30_encoding.md, at
most two small tests per command with the expected values of spec/95_test_vectors.md, and one witness per
statement that has hypotheses. -/

namespace Sys2Proof.Tests

open Sys2Proof.Machine

/-! ## Helpers -/

/-- Bytes at rising addresses. -/
def cellsFrom (a : Nat) : List Nat → List Host.Cell
  | [] => []
  | b :: bs => (a, BitVec.ofNat 8 b) :: cellsFrom (a + 1) bs

/-- The state after reset with `bs` in the frame buffer and FLEN their number. -/
def loaded (bs : List Nat) : State :=
  { State.reset with fb := { cells := cellsFrom 0 bs, block := 0, epoch := 0 },
                      flen := BitVec.ofNat 16 bs.length }

/-- The same with FLEN = n. -/
def cut (n : Nat) (bs : List Nat) : State := { loaded bs with flen := BitVec.ofNat 16 n }

/-- The same with byte `a` replaced. -/
def poke (a b : Nat) (s : State) : State := { s with fb := s.fb.write a (BitVec.ofNat 8 b) }

/-- The state a command leaves. -/
def after (i : Instr) (s : State) : State :=
  match exec i s with
  | .next t => t
  | .fault _ => s
  | .refused _ => s

/-- The state one host transaction leaves. -/
def served (input : HostInput) (s : State) : State :=
  match step { s with pending := [input] } with
  | .next t => t
  | .fault _ => s
  | .refused _ => s

/-- The two MAC addresses of frames A, B, D and T. -/
def macs : List Nat := [0x00, 0x11, 0x22, 0x33, 0x44, 0x55, 0x66, 0x77, 0x88, 0x99, 0xAA, 0xBB]

/-- Frame A of spec/95_test_vectors.md part 2 (UDP). -/
def frameA : List Nat :=
  macs ++ [0x08, 0x00]
  ++ [0x45, 0x00, 0x00, 0x3C, 0x1C, 0x46, 0x40, 0x00, 0x40, 0x11, 0x4C, 0x4F]
  ++ [0xC0, 0xA8, 0x01, 0x64, 0x08, 0x08, 0x08, 0x08] ++ [0xC3, 0x50, 0x00, 0x35, 0x00, 0x28, 0xDE, 0xAD]
  ++ [0x12, 0x34, 0x01, 0x00, 0x00, 0x01, 0x00, 0x00, 0x00, 0x00, 0x00, 0x00, 0x03, 0x77, 0x77, 0x77]
  ++ [0x06, 0x67, 0x6F, 0x6F, 0x67, 0x6C, 0x65, 0x03, 0x63, 0x6F, 0x6D, 0x00, 0x00, 0x01, 0x00, 0x01]

/-- Frame B (TCP, options in both headers). -/
def frameB : List Nat :=
  macs ++ [0x08, 0x00]
  ++ [0x46, 0x00, 0x00, 0x35, 0xAB, 0xCD, 0x00, 0x00, 0x80, 0x06, 0x77, 0xF2]
  ++ [0x0A, 0x00, 0x00, 0x01, 0x0A, 0x00, 0x00, 0x02] ++ [0x01, 0x01, 0x01, 0x00]
  ++ [0x04, 0xD2, 0x00, 0x50, 0x00, 0x00, 0x00, 0x01, 0x00, 0x00, 0x00, 0x00, 0x60, 0x18, 0xFA, 0xF0]
  ++ [0x00, 0x00, 0x00, 0x00, 0x02, 0x04, 0x05, 0xB4] ++ [0x68, 0x65, 0x6C, 0x6C, 0x6F]

/-- Frame C (ethertype 0x0806), its first 22 bytes. -/
def frameC : List Nat :=
  [0xFF, 0xFF, 0xFF, 0xFF, 0xFF, 0xFF, 0x00, 0x11, 0x22, 0x33, 0x44, 0x55, 0x08, 0x06]
  ++ [0x00, 0x01, 0x08, 0x00, 0x06, 0x04, 0x00, 0x01]

/-- Frame D (IPv4, protocol 1). -/
def frameD : List Nat :=
  macs ++ [0x08, 0x00]
  ++ [0x45, 0x00, 0x00, 0x1C, 0x00, 0x01, 0x00, 0x00, 0x40, 0x01, 0xF7, 0x2A]
  ++ [0xC0, 0xA8, 0x01, 0x64, 0xC0, 0xA8, 0x01, 0x01] ++ [0x08, 0x00, 0xF7, 0xFF, 0x00, 0x00, 0x00, 0x00]

/-- Frame T (TCP, no options). -/
def frameT : List Nat :=
  macs ++ [0x08, 0x00]
  ++ [0x45, 0x00, 0x00, 0x2C, 0x00, 0x02, 0x00, 0x00, 0x40, 0x06, 0x66, 0xC8]
  ++ [0x0A, 0x00, 0x00, 0x01, 0x0A, 0x00, 0x00, 0x02]
  ++ [0x04, 0xD2, 0x00, 0x50, 0x00, 0x00, 0x00, 0x01, 0x00, 0x00, 0x00, 0x00, 0x50, 0x18, 0xFA, 0xF0]
  ++ [0x00, 0x00, 0x00, 0x00] ++ [0x64, 0x61, 0x74, 0x61]

/-- The buffer and operands of program P4 after its line 2. -/
def program4 : State :=
  { loaded [0xFF, 0xEE, 0xDD, 0x03, 0xE8, 0x07, 0xD0, 0x00, 0x0B, 0x00, 0x00, 0x61, 0x62, 0x63] with
    opSrc := 0x0A000001#32, opDst := 0x0A000002#32, opProto := 17#8, opSeg := { off := 3#16, len := 11#16 } }

/-! ## WellFormed: one ill-formed term for each check (rule R94) -/

def goodFields : CommandFields := { opc := 0x30#8, c := true, l := false, zeroLow := 0#6, zeroHigh := 0#16 }

theorem test_smoke_legal : goodFields.legal = true := by decide
theorem test_smoke_highClear : { goodFields with zeroHigh := 1#16 }.highClear = false ∧
    { goodFields with zeroHigh := 1#16 }.legal = false := by decide
theorem test_smoke_lowClear : { goodFields with zeroLow := 1#6 }.lowClear = false ∧
    { goodFields with zeroLow := 1#6 }.legal = false := by decide
theorem test_smoke_opcAssigned : { goodFields with opc := 0x31#8 }.opcAssigned = false ∧
    { goodFields with opc := 0x31#8 }.legal = false := by decide
theorem test_smoke_flagsAllowed : { goodFields with opc := 0x10#8 }.flagsAllowed = false ∧
    { goodFields with opc := 0x10#8 }.legal = false := by decide
theorem test_smoke_wellFormed : (Instr.patch true true).WellFormed ∧ Instr.verifyr.WellFormed := by decide

/-! ## Decoding: each constructor by a word written out from the table of rule R91 -/

theorem test_decode_nop : decode 0x00000000#32 = .ok .nop := by rfl
theorem test_decode_clr : decode 0x00000001#32 = .ok .clr := by rfl
theorem test_decode_parse : decode 0x00000010#32 = .ok .parse := by rfl
theorem test_decode_parsec : decode 0x00000011#32 = .ok .parsec := by rfl
theorem test_decode_cksum : decode 0x00000020#32 = .ok .cksum := by rfl
theorem test_decode_verify : decode 0x00000021#32 = .ok .verify := by rfl
theorem test_decode_csumr : decode 0x00000022#32 = .ok .csumr := by rfl
theorem test_decode_verifyr : decode 0x00000023#32 = .ok .verifyr := by rfl
theorem test_decode_patch : decode 0x00000030#32 = .ok (.patch false false) ∧
    decode 0x00000130#32 = .ok (.patch true false) ∧ decode 0x00000230#32 = .ok (.patch false true) ∧
    decode 0x00000330#32 = .ok (.patch true true) := ⟨rfl, rfl, rfl, rfl⟩
/-- V-ENC1 to V-ENC3. -/
theorem test_decode_illegal : decode 0x00000002#32 = .error .unassignedOpc ∧
    decode 0x00000031#32 = .error .unassignedOpc ∧ decode 0x00000110#32 = .error .flagWithoutPatch ∧
    decode 0x00010000#32 = .error .highBits ∧ decode 0x80000010#32 = .error .highBits ∧
    decode 0x00000430#32 = .error .lowBits := ⟨rfl, rfl, rfl, rfl, rfl, rfl⟩
theorem test_decode_table : decodeTableWord 32 0x330 = some (.patch true true) ∧
    decodeTableWord 8 0x123 = some .verifyr ∧ decodeTableWord 32 0x110 = none := by decide
theorem test_withFetchWord : (step (State.reset.withFetchWord 32 0x10)) = exec .parse State.reset := by rfl

/-! ## The commands (spec/95_test_vectors.md) -/

/-- V-ENC4: NOP after a failed parse. -/
theorem test_nop : after .nop (after .parse State.reset) = after .parse State.reset ∧
    (after .nop (after .parse State.reset)).status.toWord = 0x00000009#32 := by decide
/-- V-ENC6. -/
theorem test_clr : after .clr (after .parse (loaded frameT)) = loaded frameT := by decide
/-- V-DEC8. -/
theorem test_parse_udp :
    let t := after .parse (loaded frameA)
    (t.status.toWord, t.cur, t.payload.toWord) = (0x00000540#32, 74#16, 0x0020002A#32) ∧
    (t.eth.smacHi, t.eth.smacLo, t.eth.dmacHi, t.eth.dmacLo)
      = (0x0011#16, 0x22334455#32, 0x6677#16, 0x8899AABB#32) ∧
    (t.ip4.flags, t.ip4.src, t.udp.dport, t.udp.csum) = (2#3, 0xC0A80164#32, 0x0035#16, 0xDEAD#16) := by decide
/-- V-DEC9. -/
theorem test_parse_tcp_options :
    let t := after .parse (loaded frameB)
    (t.status.toWord, t.ip4.hlen, t.ip4.opt.toWord) = (0x00000340#32, 24#6, 0x00040022#32) ∧
    (t.tcp.hlen, t.tcp.flags, t.tcp.opt.toWord, t.payload.toWord)
      = (24#6, 0x018#12, 0x0004003A#32, 0x0005003E#32) := by decide
/-- V-PAR6. -/
theorem test_parsec : (fun t : State => (t.status.toWord, t.payload.toWord, t.cur, t.tcp))
    (after .parsec (loaded frameB)) = (0x00000180#32, 0x001D0026#32, 67#16, TcpRegs.zero) := by decide
/-- Truncation table of part 5, frame A, n = 33. -/
theorem test_parsec_truncated : (fun t : State => (t.status.toWord, t.cur, t.eth))
    (after .parsec (cut 33 frameA)) = (0x00000011#32, 30#16, EthRegs.zero) := by decide
/-- V-CK4: an odd segment. -/
theorem test_cksum : (fun t : State => (t.status.toWord, t.csum)) (after .cksum (after .parsec (loaded frameB)))
    = (0x00000980#32, 0x4023#16) := by decide
/-- V-CK8: one byte too few for the field. -/
theorem test_cksum_short : (after .cksum (after .parsec (cut 51 frameT))).status.toWord = 0x000001A9#32 := by
  decide
/-- V-CK6. -/
theorem test_verify_true :
    (after .verify (after .parsec (poke 54 0x40 (poke 55 0x23 (loaded frameB))))).status.toWord
      = 0x00003180#32 := by decide
/-- V-CK16: the verdict is false and ERR is 3. -/
theorem test_verify_unsupported : (after .verify (after .parsec (loaded frameD))).status.toWord
    = 0x00001183#32 := by decide
/-- P4 line 3: an odd start address. -/
theorem test_csumr : (fun t : State => (t.status.toWord, t.csum)) (after .csumr program4)
    = (0x00000800#32, 0x1BBB#16) := by decide
/-- P4 line 8: 11 < 16 + 2. -/
theorem test_csumr_short : (after .csumr { program4 with opProto := 6#8 }).status.toWord = 0x00000029#32 := by
  decide
/-- P4 line 6. -/
theorem test_verifyr_true : (after .verifyr (poke 9 0x1B (poke 10 0xBB program4))).status.toWord
    = 0x00003000#32 := by decide
/-- P4 line 13: no verdict for a window outside the frame. -/
theorem test_verifyr_window :
    (after .verifyr { program4 with opSeg := Slice.ofWord 0x000C0003#32 }).status.toWord = 0x00000029#32 := by
  decide
/-- V-PAT6: both flags, the addresses from the view. -/
theorem test_patch_both :
    let t := after (.patch true true) (after .parsec (poke 16 0xFF (poke 17 0xFF (loaded frameB))))
    (t.status.toWord, t.csum) = (0x00000800#32, 0x4023#16) ∧
    (t.fb.read 16, t.fb.read 17, t.fb.read 53, t.fb.read 54, t.fb.read 55, t.fb.read 56)
      = (0x00#8, 0x35#8, 0xF0#8, 0x40#8, 0x23#8, 0x00#8) := by decide
/-- V-PAT9: an unsupported protocol writes nothing, not even the total length. -/
theorem test_patch_unsupported :
    let t := after (.patch true true) (after .parsec (poke 17 0xFF (loaded frameD)))
    t.status.toWord = 0x00000183#32 ∧ t.fb.read 17 = 0xFF#8 := by decide

/-! ## The host transactions -/

/-- V-HOST1, V-HOST2. -/
theorem test_write_flen : (served (.write 0x02#6 3000#32) State.reset).flen = 2048#16 ∧
    (served (.write 0x02#6 0x00010005#32) State.reset).flen = 5#16 := by decide
/-- V-HOST3, V-HOST4: below FB_BYTES the view ends, at FB_BYTES the write is ignored. -/
theorem test_fbw_drops_view :
    (served (.fbWrite 100#16 0#8) (after .parse (loaded frameT))).status.toWord = 0#32 ∧
    (served (.fbWrite 2048#16 0#8) (after .parse (loaded frameT))).status.toWord = 0x00000340#32 := by decide
/-- V-HOST8. -/
theorem test_unassigned_register :
    (served (.read 0x3F#6) State.reset).reply = .word 0#32 ∧
    served (.write 0x01#6 0xFFFFFFFF#32) State.reset = State.reset := by decide
/-- V-ENC1. -/
theorem test_illegal_word : (served (.write 0x00#6 0x000000FF#32) (after .parse (loaded frameT))).status.toWord
    = 0x00000344#32 := by decide
/-- V-DEC6, V-DEC7. -/
theorem test_subfields : (ipFlags 0x2001#16, ipFrag 0x2001#16, ipFrag 0xFFFF#16) = (1#3, 1#13, 8191#13) ∧
    (tcpHlen 0xF1FF#16, tcpFlags 0xF1FF#16, ipHlen 0x4F#8) = (60#6, 0x1FF#12, 60#6) := by decide
/-- The list of rule R172. -/
theorem test_fold : (fold 0x1FFFE, fold 0x2BFDA, fold 0x80047FFB) = (0xFFFF, 0xBFDC, 0xFFFF) := by decide

/-! ## The test notation (rules R99, R100) -/

theorem test_text : AsmText.parseLine "Patch CL ; both".toList = some (some (.command (.patch true true))) ∧
    AsmText.parseLine "wr OP_SEG, 0x000B0003".toList = some (some (.wr .OP_SEG 0xB0003#32)) ∧
    AsmText.parseLine "expect FB[50..52) = 60 18".toList = some (some (.expectFb 50#16 [0x60#8, 0x18#8])) ∧
    AsmText.parseLine "csumr c".toList = none := by decide
/-- P1 lines 2 and 3, in part. -/
theorem test_run : ((AsmLine.runAll [.command .parse, .expectReg .PAYLOAD 0x00040036#32,
    .expectFb 54#16 [0x64#8, 0x61#8]] (loaded frameT)).map fun t => t.status.toWord) = some 0x00000340#32 := by
  decide

/-! ## Witnesses: states and operands that meet the hypotheses of each statement -/

/-- `s` with a transaction to serve. -/
def asked (input : HostInput) (s : State) : State := { s with pending := [input] }

/-- A state that holds the ChecksumFrame of frame T. -/
def heldT : State := after .parsec (loaded frameT)

/-- Its engine arguments, with a segment of `n` bytes. -/
def argsT (n : Nat) : EngineArgs := { heldT.viewArgs with seg := { off := 34#16, len := BitVec.ofNat 16 n } }

/-- A segment that opens a state up to any protocol and length. -/
def withSegment (p : Byte) (n : Nat) (s : State) : State :=
  { s with ip4 := { s.ip4 with proto := p }, payload := { s.payload with len := BitVec.ofNat 16 n } }

/-- The same of the operand registers. -/
def withOperands (p : Byte) (n : Nat) (s : State) : State :=
  { s with opProto := p, opSeg := { off := 0#16, len := BitVec.ofNat 16 n } }

theorem witness_DecodeAndEncodeAgree : (Instr.patch true true).WellFormed ∧
    decode 0x00000330#32 = .ok (.patch true true) := ⟨by decide, rfl⟩
theorem witness_StepRunsTheDecodedCommand :
    (asked (.write 0x00#6 0x10#32) State.reset).pending = [.write 0x00#6 0x10#32] ∧
    decode 0x10#32 = .ok .parse ∧ decodeTableWord 32 0x130 = some (.patch true false) :=
  ⟨rfl, rfl, by decide⟩
theorem witness_LegalWordsAreTheTwelve : ¬ LegalWord 0x00000110#32 ∧ ¬ LegalWord 0x00000031#32 ∧
    (asked (.write 0x00#6 0x31#32) State.reset).pending = [.write 0x00#6 0x31#32] := by decide
theorem witness_IllegalWordOnlyReportsIllegalCmd :
    (asked (.write 0x00#6 0x02#32) State.reset).pending = [.write 0x00#6 0x02#32] ∧
    ¬ LegalWord 0x02#32 ∧ ¬ LegalWord 0x110#32 ∧ ¬ LegalWord 0x430#32 := by decide
theorem witness_MemReadIsBoundedAndBigEndian : 5 + 1 ≤ (cut 6 []).frame.flen ∧ 4 + 2 ≤ (cut 6 []).frame.flen ∧
    2 + 4 ≤ (cut 6 []).frame.flen ∧ 0 + 6 ≤ (cut 6 []).frame.flen ∧ 1 + 6 > (cut 6 []).frame.flen := by decide
theorem witness_CursorPrimitives : 4 + 3 > (cut 6 []).frame.flen ∧ 4 + 2 ≤ (cut 6 []).frame.flen ∧
    6 + 0 ≤ (cut 6 []).frame.flen := by decide
theorem witness_MemWriteStoresTwoBytes : (loaded frameT).fb.wf = true ∧ State.reset.fb.wf = true := by decide
theorem witness_NopChangesNothing : (0x100#32).extractLsb' 0 8 = 0x00#8 ∧ 0x100#32 ≠ 0#32 := by decide
theorem witness_ParseDeliversTheLayout : Layout.parseFits (loaded frameA) ∧ Layout.parseFits (loaded frameB) ∧
    Layout.parseFits (loaded frameC) ∧ Layout.parseFits (loaded frameD) ∧ Layout.parseFits (cut 54 frameT) :=
  ⟨by decide, by decide, by decide, by decide, by decide⟩
theorem witness_ParsecDeliversTheLayout : Layout.parsecFits (cut 34 frameA) ∧ Layout.parsecFits (loaded frameB) ∧
    Layout.parsecFits (cut 14 frameC) := by decide
theorem witness_EthernetTruncation : (0, 6) ∈ Layout.ethFields ∧ 0 ≤ (cut 5 []).flen.toNat ∧
    (cut 5 []).flen.toNat < 0 + 6 ∧ (12, 2) ∈ Layout.ethFields ∧ 12 ≤ (cut 13 []).flen.toNat ∧
    (cut 13 []).flen.toNat < 12 + 2 := by decide
/-- The three clauses: frame A with FLEN = 33, with header_length 16, with header_length 60 and FLEN = 73. -/
theorem witness_Ipv4HeaderErrors :
    (14 ≤ (cut 33 frameA).flen.toNat ∧ Layout.etype (cut 33 frameA).fb = 0x0800#16 ∧
      (16, 4) ∈ Layout.ipFields ∧ 14 + 16 ≤ (cut 33 frameA).flen.toNat ∧
      (cut 33 frameA).flen.toNat < 14 + 16 + 4) ∧
    (34 ≤ (poke 14 0x44 (loaded frameA)).flen.toNat ∧ Layout.etype (poke 14 0x44 (loaded frameA)).fb = 0x0800#16 ∧
      Layout.ipHlen (poke 14 0x44 (loaded frameA)).fb < 20) ∧
    (34 ≤ (poke 14 0x4F (cut 73 frameA)).flen.toNat ∧ Layout.etype (poke 14 0x4F (cut 73 frameA)).fb = 0x0800#16 ∧
      20 ≤ Layout.ipHlen (poke 14 0x4F (cut 73 frameA)).fb ∧
      (poke 14 0x4F (cut 73 frameA)).flen.toNat < 14 + Layout.ipHlen (poke 14 0x4F (cut 73 frameA)).fb) := by
  decide
/-- The three clauses: frame T with FLEN = 53, with header_length 16, with header_length 60. -/
theorem witness_TcpHeaderErrors :
    (Layout.parsecFits (cut 53 frameT) ∧ Layout.isIpv4With (cut 53 frameT).fb 6#8 ∧
      34 = 14 + Layout.ipHlen (cut 53 frameT).fb ∧ (18, 2) ∈ Layout.tcpFields ∧
      34 + 18 ≤ (cut 53 frameT).flen.toNat ∧ (cut 53 frameT).flen.toNat < 34 + 18 + 2) ∧
    (Layout.parsecFits (poke 46 0x40 (loaded frameT)) ∧ Layout.isIpv4With (poke 46 0x40 (loaded frameT)).fb 6#8 ∧
      34 = 14 + Layout.ipHlen (poke 46 0x40 (loaded frameT)).fb ∧
      34 + 20 ≤ (poke 46 0x40 (loaded frameT)).flen.toNat ∧
      Layout.tcpHlen (poke 46 0x40 (loaded frameT)).fb 34 < 20) ∧
    (Layout.parsecFits (poke 46 0xF0 (loaded frameT)) ∧ Layout.isIpv4With (poke 46 0xF0 (loaded frameT)).fb 6#8 ∧
      34 = 14 + Layout.ipHlen (poke 46 0xF0 (loaded frameT)).fb ∧
      34 + 20 ≤ (poke 46 0xF0 (loaded frameT)).flen.toNat ∧
      20 ≤ Layout.tcpHlen (poke 46 0xF0 (loaded frameT)).fb 34 ∧
      (poke 46 0xF0 (loaded frameT)).flen.toNat < 34 + Layout.tcpHlen (poke 46 0xF0 (loaded frameT)).fb 34) := by
  decide
theorem witness_UdpHeaderErrors : Layout.parsecFits (cut 41 frameA) ∧ Layout.isIpv4With (cut 41 frameA).fb 17#8 ∧
    34 = 14 + Layout.ipHlen (cut 41 frameA).fb ∧ (6, 2) ∈ Layout.udpFields ∧ 34 + 6 ≤ (cut 41 frameA).flen.toNat ∧
    (cut 41 frameA).flen.toNat < 34 + 6 + 2 := by decide
theorem witness_FoldOfAThirtyTwoBitAccumulator : 0xFFFFFFFF < 2 ^ 32 ∧ 0 < 0xFFFFFFFF ∧ 2 ≤ 2 := by decide
theorem witness_AccumulatorNeverOverflows : 65535 ≤ 65535 ∧ FieldOffset (argsT 18).proto 16 ∧
    16 + 2 ≤ (argsT 18).seg.len.toNat ∧ 0xFFFFFFFE + 1 < 2 ^ 32 := by decide
theorem witness_ChecksumThenVerifyRoundTrip :
    (FieldOffset (argsT 18).proto 16 ∧ 16 + 2 ≤ (argsT 18).seg.len.toNat) ∧
    (FieldOffset { argsT 8 with proto := 17#8 }.proto 6 ∧ 6 + 2 ≤ { argsT 8 with proto := 17#8 }.seg.len.toNat) := by
  decide
theorem witness_SumSplitsAtEvenPoints : 6 % 2 = 0 ∧ 6 ≤ 6 ∧ 6 + 2 ≤ 11 ∧ 16 % 2 = 0 ∧ 16 + 2 ≤ 18 := by decide
/-- Frame T holds `00 00` in its field. -/
theorem witness_ZeroFieldVerifiesOnlyOnZeroChecksum : FieldOffset (argsT 24).proto 16 ∧
    16 + 2 ≤ (argsT 24).seg.len.toNat ∧ (loaded frameT).fb.read (34 + 16) = 0#8 ∧
    (loaded frameT).fb.read (34 + 16 + 1) = 0#8 ∧ (argsT 24).seg.off.toNat = 34 := by decide

/-- One state for each of the four clauses, with the field at its shortest segment. -/
theorem witness_CksumByCases : State.reset.status.view ≠ .checksum ∧
    ((after .parsec (loaded frameC)).status.view = .checksum ∧
      (after .parsec (loaded frameC)).status.l3tag ≠ .ipv4) ∧
    ((after .parsec (loaded frameD)).status.view = .checksum ∧
      Unsupported (after .parsec (loaded frameD)).ip4.proto) ∧
    (heldT.status.view = .checksum ∧ heldT.status.l3tag = .ipv4) ∧
    (FieldOffset (withSegment 6#8 17 heldT).ip4.proto 16 ∧ (withSegment 6#8 17 heldT).payload.len.toNat < 16 + 2) ∧
    (FieldOffset (withSegment 6#8 18 heldT).ip4.proto 16 ∧ 16 + 2 ≤ (withSegment 6#8 18 heldT).payload.len.toNat) ∧
    (FieldOffset (withSegment 17#8 7 heldT).ip4.proto 6 ∧ (withSegment 17#8 7 heldT).payload.len.toNat < 6 + 2) ∧
    (FieldOffset (withSegment 17#8 8 heldT).ip4.proto 6 ∧ 6 + 2 ≤ (withSegment 17#8 8 heldT).payload.len.toNat) := by
  decide
theorem witness_VerifyByCases : State.reset.status.view ≠ .checksum ∧
    ((after .parsec (loaded frameC)).status.view = .checksum ∧
      (after .parsec (loaded frameC)).status.l3tag ≠ .ipv4) ∧
    ((after .parsec (loaded frameD)).status.view = .checksum ∧
      Unsupported (after .parsec (loaded frameD)).ip4.proto) ∧
    (heldT.status.view = .checksum ∧ heldT.status.l3tag = .ipv4 ∧ heldT.ip4.proto = 6#8) := by decide
theorem witness_CsumrByCases : Unsupported State.reset.opProto ∧
    (¬ Unsupported (withOperands 17#8 15 program4).opProto ∧ program4.flen.toNat < 0 + 15) ∧
    (FieldOffset (withOperands 17#8 7 program4).opProto 6 ∧ 0 + 7 ≤ program4.flen.toNat ∧ 7 < 6 + 2) ∧
    (FieldOffset (withOperands 17#8 14 program4).opProto 6 ∧ 0 + 14 ≤ program4.flen.toNat ∧ 6 + 2 ≤ 14) ∧
    (FieldOffset (withOperands 6#8 18 (loaded frameT)).opProto 16 ∧ 0 + 18 ≤ (loaded frameT).flen.toNat ∧
      16 + 2 ≤ (withOperands 6#8 18 (loaded frameT)).opSeg.len.toNat) := by decide
theorem witness_VerifyrByCases : Unsupported State.reset.opProto ∧
    (¬ Unsupported (withOperands 17#8 15 program4).opProto ∧ program4.flen.toNat < 0 + 15) ∧
    (¬ Unsupported (withOperands 17#8 0 program4).opProto ∧ 0 + 0 ≤ program4.flen.toNat) := by decide
theorem witness_PatchWithoutAWrite : State.reset.status.view ≠ .checksum ∧
    (heldT.status.view = .checksum ∧ heldT.status.l3tag = .ipv4) ∧
    ((after .parsec (loaded frameC)).status.view = .checksum ∧
      (after .parsec (loaded frameC)).status.l3tag ≠ .ipv4) ∧
    ((after .parsec (loaded frameD)).status.view = .checksum ∧ (after .parsec (loaded frameD)).status.l3tag = .ipv4 ∧
      Unsupported (after .parsec (loaded frameD)).ip4.proto) ∧
    (FieldOffset (withSegment 6#8 17 heldT).ip4.proto 16 ∧
      (withSegment 6#8 17 heldT).payload.len.toNat < 16 + 2) := by decide
theorem witness_PatchStoresTheChecksum : heldT.status.view = .checksum ∧ heldT.status.l3tag = .ipv4 ∧
    FieldOffset heldT.ip4.proto 16 ∧ 16 + 2 ≤ heldT.payload.len.toNat := by decide
theorem witness_PatchStoresTheTotalLength : heldT.status.view = .checksum ∧ heldT.status.l3tag = .ipv4 := by decide
/-- A PATCH that writes; 15 is no byte it stores to, and byte 51 is. -/
theorem witness_PatchFrame : exec (.patch true true) heldT = .next (after (.patch true true) heldT) ∧
    FieldOffset heldT.ip4.proto 16 ∧ heldT.csumFieldAddr 16 = 50 ∧ 15 ≠ 16 ∧ 15 ≠ 17 :=
  ⟨rfl, by decide⟩
theorem witness_PatchIsAllOrNothing :
    exec (.patch true true) (after .parsec (loaded frameD))
      = .next (after (.patch true true) (after .parsec (loaded frameD))) ∧
    (after (.patch true true) (after .parsec (loaded frameD))).status.err ≠ .ok := ⟨rfl, by decide⟩
/-- The invariant in a state that holds a ChecksumFrame. -/
theorem witness_heldT_inv : heldT.Inv where
  buffer := ⟨by decide, by decide, by decide, by decide, by decide⟩
  scalars := ⟨by decide, by decide, by decide, by decide, by decide, by decide⟩
  groups := ⟨by decide, by decide, by decide, by decide, by decide, by decide, by decide⟩
  view := ⟨by decide, by decide⟩
/-- The invariant in a state that holds a DecodedFrame. -/
theorem witness_decoded_inv : (after .parse (loaded frameA)).Inv where
  buffer := ⟨by decide, by decide, by decide, by decide, by decide⟩
  scalars := ⟨by decide, by decide, by decide, by decide, by decide, by decide⟩
  groups := ⟨by decide, by decide, by decide, by decide, by decide, by decide, by decide⟩
  view := ⟨by decide, by decide⟩
theorem witness_PatchedTotalLengthCountsTheDatagram : heldT.Inv ∧ heldT.status.view = .checksum ∧
    heldT.status.l3tag = .ipv4 ∧ exec (.patch true true) heldT = .next (after (.patch true true) heldT) ∧
    (after (.patch true true) heldT).status.err = .ok :=
  ⟨witness_heldT_inv, by decide, by decide, rfl, by decide⟩
theorem witness_PatchParsecVerifyIsTrue : heldT.Inv ∧ heldT.status.view = .checksum ∧ heldT.status.l3tag = .ipv4 ∧
    FieldOffset heldT.ip4.proto 16 ∧ 16 + 2 ≤ heldT.payload.len.toNat := ⟨witness_heldT_inv, by decide⟩
/-- The last address inside the buffer of 2048 bytes and the first outside it. -/
theorem witness_HostBufferTransactions :
    (asked (.fbRead 2047#16) State.reset).pending = [.fbRead 2047#16] ∧
    (asked (.fbWrite 2047#16 1#8) State.reset).pending = [.fbWrite 2047#16 1#8] ∧
    (2047#16).toNat < State.reset.cfg.fbBytes ∧ State.reset.cfg.fbBytes ≤ (2048#16).toNat := by decide
theorem witness_HostRegisterWrites :
    (asked (.write 0x02#6 3000#32) heldT).pending = [.write 0x02#6 3000#32] ∧
    0x3F#6 ∉ [0x00#6, 0x02#6, 0x04#6, 0x05#6, 0x06#6, 0x07#6] := by decide
theorem witness_HostRegisterReads : (asked (.read 0x38#6) heldT).pending = [.read 0x38#6] ∧
    (served (.read 0x38#6) heldT).reply = .word 0x00180022#32 ∧ (served (.read 0x00#6) heldT).reply = .word 0#32 ∧
    (served (.read 0x39#6) heldT).reply = .word 0#32 := by decide
theorem witness_IdleBlockHoldsItsState : State.reset.pending = [] := rfl
theorem witness_EndingsOfEveryCommand :
    exec .verify (after .parsec (loaded frameD)) = .next (after .verify (after .parsec (loaded frameD))) ∧
    (after .verify (after .parsec (loaded frameD))).status.err = .unsupportedProtocol ∧
    (ErrCode.truncated, Stage.udp) ∈ endings .parse := ⟨rfl, by decide, by decide⟩
theorem witness_ChecksumCommandsChangeOnlyScalars : exec .cksum heldT = .next (after .cksum heldT) := rfl
theorem witness_CommandsKeepFlenOperandsAndBuffer : exec .parsec heldT = .next (after .parsec heldT) ∧
    ∀ c l, Instr.parsec ≠ .patch c l := ⟨rfl, by decide⟩
theorem witness_CursorAfterEveryStep :
    (exec .parse (loaded frameT) = .next (after .parse (loaded frameT)) ∧
      (after .parse (loaded frameT)).status.err = .ok) ∧
    step (asked (.write 0x02#6 5#32) heldT) = .next (served (.write 0x02#6 5#32) heldT) ∧
    HostInput.write 0x02#6 5#32 ≠ .reset ∧ ∀ w, HostInput.write 0x02#6 5#32 ≠ .write 0x00#6 w :=
  ⟨⟨rfl, by decide⟩, rfl, by decide, fun w h => by simp at h⟩
theorem witness_ScalarResultsBelongToTheLatestCommand : exec .cksum heldT = .next (after .cksum heldT) ∧
    (after .cksum heldT).status.csumV = true ∧ exec .verify heldT = .next (after .verify heldT) ∧
    (after .verify heldT).status.vfyV = true ∧
    step (asked (.fbRead 0#16) heldT) = .next (served (.fbRead 0#16) heldT) :=
  ⟨rfl, by decide, rfl, by decide, rfl⟩
theorem witness_OnlyListedEventsEndTheView :
    step (asked (.fbWrite 0#16 0#8) heldT) = .next (served (.fbWrite 0#16 0#8) heldT) ∧
    (served (.fbWrite 0#16 0#8) heldT).status.view ≠ (asked (.fbWrite 0#16 0#8) heldT).status.view :=
  ⟨rfl, by decide⟩
theorem witness_RepeatedCommands : exec .parsec heldT = .next (after .parsec heldT) ∧
    (exec (.patch true false) heldT = .next (after (.patch true false) heldT) ∧
      (after (.patch true false) heldT).status.err = .ok) ∧
    exec (.patch true false) State.reset = .next (after (.patch true false) State.reset) ∧
    (after (.patch true false) State.reset).status.err ≠ .ok := ⟨rfl, ⟨rfl, by decide⟩, rfl, by decide⟩
/-- Two states that differ in the first byte past the frame. -/
theorem witness_CommandsSeeOnlyTheFrame : heldT.Inv ∧ heldT.AgreeOnFrame (poke 58 1 heldT) ∧
    poke 58 1 heldT ≠ heldT ∧ exec .verify heldT = .next (after .verify heldT) := by
  refine ⟨witness_heldT_inv, ⟨rfl, ?_⟩, by decide, rfl⟩
  have : heldT.flen.toNat = 58 := by decide
  intro a ha
  rw [this] at ha
  revert a
  decide
/-- Two instances of one capacity, just reset, carry different block numbers (rules R41, R79). -/
theorem test_reset_instances_are_different_blocks :
    ((resetInstances #v[Config.examples, Config.examples]).get 0).fb.block = 0 ∧
    ((resetInstances #v[Config.examples, Config.examples]).get 1).fb.block = 1 := by decide
theorem witness_InstancesAreIndependent :
    stepInstance 0 #v[asked (.fbRead 0#16) State.reset, State.reset]
      = .next #v[served (.fbRead 0#16) State.reset, State.reset] ∧ (1 : Fin 2) ≠ 0 := ⟨rfl, by decide⟩
theorem witness_ResetLeavesTheResetTable : State.reset = State.resetWith Config.examples 0 := rfl
theorem witness_ResetPulseGivesTheResetTable : (asked .reset heldT).pending = [.reset] ∧
    step (asked .reset heldT) = .next (served .reset heldT) ∧ (served .reset heldT).fb.epoch = 1 :=
  ⟨rfl, rfl, by decide⟩
theorem witness_CommandsAfterReset : { State.resetWith Config.examples 0 with fb := heldT.fb }
    = { State.reset with fb := heldT.fb } := rfl
theorem witness_ResetMeetsTheInvariant : (Config.mk 1).Valid ∧ (Config.mk 65535).Valid := by decide
theorem witness_AbsentGroupsReadZero : heldT.AbsentGroupsZero ∧
    step (asked (.write 0x00#6 0x01#32) heldT) = .next (served (.write 0x00#6 0x01#32) heldT) :=
  ⟨witness_heldT_inv.groups, rfl⟩
/-- The invariant holds with a command to serve, and the step answers. -/
theorem witness_StepKeepsTheInvariant : (asked (.write 0x00#6 0x330#32) heldT).Inv ∧
    step (asked (.write 0x00#6 0x330#32) heldT) = .next (served (.write 0x00#6 0x330#32) heldT) := by
  have h := witness_heldT_inv
  exact ⟨⟨⟨h.buffer.cfg, h.buffer.flen, h.buffer.cur, h.buffer.wf, h.buffer.below⟩,
    ⟨h.scalars.stage, h.scalars.csum, h.scalars.vfy, h.scalars.csumV, h.scalars.vfyV, h.scalars.vfyTrue⟩,
    ⟨h.groups.eth, h.groups.ip4, h.groups.tcp, h.groups.udp, h.groups.payload, h.groups.l3tag, h.groups.l4tag⟩,
    h.view⟩, rfl⟩
theorem witness_HeldSegmentEndsTheFrame : heldT.Inv ∧ heldT.status.view ≠ .none ∧ heldT.status.l3tag = .ipv4 :=
  ⟨witness_heldT_inv, by decide, by decide⟩
/-- A frame that fills a buffer of one byte. -/
theorem witness_FrameLineLoadsTheFrame : (State.resetWith (Config.mk 1) 0).cfg.Valid ∧
    [0xAB#8].length ≤ (State.resetWith (Config.mk 1) 0).cfg.fbBytes := by decide
theorem witness_CommandLineRunsTheCommand :
    exec .parsec { heldT with pending := [], reply := .nothing }
      = .next (after .parsec { heldT with pending := [], reply := .nothing }) := rfl

end Sys2Proof.Tests
end

/-! ## Absent groups (spec/10_state.md rules R37 to R40)

What a step can do to the view and its register groups is said once, as `ViewStep`; rule R38's invariant then has
one case for each of the four ways. -/

namespace Sys2Proof.Machine

/-- The part of the state that rules R37 and R38 speak of: the held view, its tags and the register groups. -/
structure HeldView where
  view : View
  l3tag : L3Tag
  l4tag : L4Tag
  eth : EthRegs
  ip4 : Ip4Regs
  tcp : TcpRegs
  udp : UdpRegs
  payload : Slice

/-- The view a state holds. -/
def State.heldView (s : State) : HeldView where
  view := s.status.view
  l3tag := s.status.l3tag
  l4tag := s.status.l4tag
  eth := s.eth
  ip4 := s.ip4
  tcp := s.tcp
  udp := s.udp
  payload := s.payload

/-- The four things that can happen to the view between `s` and `t`: it is kept, dropped (rule R40), or replaced by
the decode of the frame, of PARSE (rule R152) or of PARSEC (rule R153). -/
inductive ViewStep (s t : State) : Prop where
  | kept (h : t.heldView = s.heldView)
  | dropped (h : t.heldView = s.dropView.heldView)
  | decoded (d : DecodedFrame) (c : Nat) (hd : decodeFrame s.frame = .ok (d, c))
      (h : t.heldView = (s.dropView.commitDecoded d c).heldView)
  | checksum (d : ChecksumFrame) (c : Nat) (hd : decodeChecksumFrame s.frame = .ok (d, c))
      (h : t.heldView = (s.dropView.commitChecksumFrame d c).heldView)

/-! ### Every step is a `ViewStep` -/

/-- The transactions to come and the last reply have no part in what happens to the view. -/
theorem ViewStep.of_pending_reply {s t : State} {p : List HostInput} {r : HostReply}
    (h : ViewStep { s with pending := p, reply := r } t) : ViewStep s t := by
  cases h with
  | kept h => exact .kept h
  | dropped h => exact .dropped h
  | decoded d c hd h => exact .decoded d c hd h
  | checksum d c hd h => exact .checksum d c hd h

/-- The commit of PATCH drops the view, whatever it writes (rule R200). -/
theorem commitPatch_heldView (p : Option (Nat × Half)) (l : Bool) (s : State) :
    (s.commitPatch p l).heldView = s.dropView.heldView := by
  cases p <;> cases l <;> rfl

/-- CLR ends with no view (rule R151). -/
theorem exec_clr_viewStep {s t : State} (h : exec .clr s = .next t) : ViewStep s t := by
  cases h
  exact .dropped rfl

theorem exec_parse_viewStep {s t : State} (h : exec .parse s = .next t) : ViewStep s t := by
  rcases exec_parse_cases h with ⟨d, -, rfl⟩ | ⟨d, c, hd, rfl⟩
  · exact .dropped rfl
  · exact .decoded d c hd rfl

theorem exec_parsec_viewStep {s t : State} (h : exec .parsec s = .next t) : ViewStep s t := by
  rcases exec_parsec_cases h with ⟨d, -, rfl⟩ | ⟨d, c, hd, rfl⟩
  · exact .dropped rfl
  · exact .checksum d c hd rfl

/-- PATCH drops the view when it commits with a flag, and keeps it otherwise (rules R200, R203). -/
theorem exec_patch_viewStep {s t : State} {c l : Bool} (h : exec (.patch c l) s = .next t) :
    ViewStep s t := by
  rcases exec_patch_cases h with
    ⟨-, rfl⟩ | ⟨-, -, -, rfl⟩ | ⟨-, -, -, rfl⟩ | ⟨-, -, -, ⟨e, -, rfl⟩ | ⟨plan, -, rfl⟩⟩
  · exact .kept rfl
  · exact .kept rfl
  · exact .kept rfl
  · exact .kept rfl
  · exact .dropped (commitPatch_heldView plan l s.beginCommand)

/-- The four checksum commands read the view at most (rules R178 to R181). -/
theorem exec_checksum_heldView {s t : State} {i : Instr} (hi : i ∈ [.cksum, .verify, .csumr, .verifyr])
    (h : exec i s = .next t) : t.heldView = s.heldView := by
  simp only [List.mem_cons, List.not_mem_nil, or_false] at hi
  rcases hi with rfl | rfl | rfl | rfl
  · rcases exec_cksum_cases h with ⟨-, rfl⟩ | ⟨-, -, rfl⟩ | ⟨-, -, ⟨e, -, rfl⟩ | ⟨c, -, rfl⟩⟩ <;> rfl
  · rcases exec_verify_cases h with ⟨-, rfl⟩ | ⟨-, -, rfl⟩ | ⟨-, -, rfl⟩ <;> rfl
  · rcases exec_csumr_cases h with ⟨-, rfl⟩ | ⟨-, -, rfl⟩ | ⟨-, -, ⟨e, -, rfl⟩ | ⟨c, -, rfl⟩⟩ <;> rfl
  · rcases exec_verifyr_cases h with ⟨-, rfl⟩ | ⟨-, -, rfl⟩ | ⟨-, -, rfl⟩ <;> rfl

theorem exec_viewStep {i : Instr} {s t : State} (h : exec i s = .next t) : ViewStep s t := by
  cases i with
  | nop => cases h; exact .kept rfl
  | clr => exact exec_clr_viewStep h
  | parse => exact exec_parse_viewStep h
  | parsec => exact exec_parsec_viewStep h
  | cksum => exact .kept (exec_checksum_heldView (by decide) h)
  | verify => exact .kept (exec_checksum_heldView (by decide) h)
  | csumr => exact .kept (exec_checksum_heldView (by decide) h)
  | verifyr => exact .kept (exec_checksum_heldView (by decide) h)
  | patch c l => exact exec_patch_viewStep h

/-- An illegal word keeps the view (rule R214); a legal one is its command. -/
theorem execWord_viewStep {w : Word} {s t : State} (h : execWord w s = .next t) : ViewStep s t := by
  unfold execWord at h
  split at h
  · cases h; exact .kept rfl
  · exact exec_viewStep h

theorem serve_viewStep {input : HostInput} {s t : State} (h : serve input s = .next t) :
    ViewStep s t := by
  by_cases hr : input = .reset
  · subst hr; cases h; exact .dropped rfl
  by_cases hw : ∃ w, input = .write 0x00#6 w
  · obtain ⟨w, rfl⟩ := hw
    exact (execWord_viewStep (serve_command w s ▸ h)).of_pending_reply
  obtain ⟨rep, rfl | ⟨a, b, -, -, rfl⟩ | ⟨v, -, rfl⟩ | ⟨a, b, c, d, rfl⟩⟩ :=
    serve_cases h hr (not_exists.1 hw)
  · exact .kept rfl
  · exact .dropped rfl
  · exact .dropped rfl
  · exact .kept rfl

/-- All that a step can do to the view and its groups. -/
theorem step_viewStep {s t : State} (h : step s = .next t) : ViewStep s t := by
  cases hp : s.pending with
  | nil =>
    simp only [step, State.transact, hp] at h
    cases h
    exact .kept rfl
  | cons input rest => exact (serve_viewStep (step_cons hp ▸ h)).of_pending_reply

/-! ### The invariant of rule R38 -/

namespace State

/-- The invariant is about the held view alone. -/
theorem AbsentGroupsZero.of_heldView_eq {s t : State} (hs : s.AbsentGroupsZero)
    (h : t.heldView = s.heldView) : t.AbsentGroupsZero := by
  simp only [heldView, HeldView.mk.injEq] at h
  obtain ⟨hview, hl3, hl4, heth, hip4, htcp, hudp, hpay⟩ := h
  obtain ⟨eth, ip4, tcp, udp, payload, l3tag, l4tag⟩ := hs
  constructor <;>
    simpa only [holdsEth, holdsIp4, holdsTcp, holdsUdp, hview, hl3, hl4, heth, hip4, htcp, hudp, hpay]

/-- `DropView()` leaves nothing that could be other than 0 (rule R40). -/
theorem dropView_absentGroupsZero (s : State) : s.dropView.AbsentGroupsZero where
  eth _ := rfl
  ip4 _ := rfl
  tcp _ := rfl
  udp _ := rfl
  payload _ := rfl
  l3tag _ := rfl
  l4tag _ := rfl

/-- A group of IP4, TCP or UDP is written by PARSE's commit only with the tag that says it holds a value, and was
0 since the drop before it (rule R152). -/
theorem commitDecoded_dropView_absentGroupsZero (d : DecodedFrame) (c : Nat) (s : State) :
    (s.dropView.commitDecoded d c).AbsentGroupsZero := by
  obtain ⟨eth, l3, l4, payload⟩ := d
  constructor
  case eth => exact fun h => absurd nofun h
  case ip4 =>
    intro h
    cases l3 with
    | unknown => rfl
    | ipv4 r => exact absurd ⟨nofun, rfl⟩ h
  case tcp =>
    intro h
    cases l4 with
    | tcp r => exact absurd ⟨rfl, rfl⟩ h
    | udp r => rfl
    | unknown => rfl
  case udp =>
    intro h
    cases l4 with
    | tcp r => rfl
    | udp r => exact absurd ⟨rfl, rfl⟩ h
    | unknown => rfl
  case payload => nofun
  case l3tag => nofun
  case l4tag => exact fun h => absurd rfl h

/-- PARSEC's commit writes group IP4 only with its tag and leaves TCP and UDP at 0 (rule R153). -/
theorem commitChecksumFrame_dropView_absentGroupsZero (d : ChecksumFrame) (c : Nat) (s : State) :
    (s.dropView.commitChecksumFrame d c).AbsentGroupsZero := by
  obtain ⟨eth, l3, remain⟩ := d
  constructor
  case eth => exact fun h => absurd nofun h
  case ip4 =>
    intro h
    cases l3 with
    | unknown => rfl
    | ipv4 r => exact absurd ⟨nofun, rfl⟩ h
  case tcp => exact fun _ => rfl
  case udp => exact fun _ => rfl
  case payload => nofun
  case l3tag => nofun
  case l4tag => exact fun _ => rfl

/-- The state after reset holds no view (rule R45). -/
theorem resetWith_absentGroupsZero (c : Config) (k : Nat) : (resetWith c k).AbsentGroupsZero :=
  (dropView_absentGroupsZero (resetWith c k)).of_heldView_eq rfl

theorem AbsentGroupsZero.of_viewStep {s t : State} (hs : s.AbsentGroupsZero) (h : ViewStep s t) :
    t.AbsentGroupsZero := by
  cases h with
  | kept h => exact hs.of_heldView_eq h
  | dropped h => exact (dropView_absentGroupsZero s).of_heldView_eq h
  | decoded d c _ h => exact (commitDecoded_dropView_absentGroupsZero d c s).of_heldView_eq h
  | checksum d c _ h => exact (commitChecksumFrame_dropView_absentGroupsZero d c s).of_heldView_eq h

end State

/-- Settles O55: reset holds no view, and each of the four things a step can do to the view keeps rule R38's
invariant. -/
theorem absentGroupsReadZero : Obligations.AbsentGroupsReadZero :=
  ⟨State.resetWith_absentGroupsZero, fun _ _ hs h => hs.of_viewStep (step_viewStep h)⟩

end Sys2Proof.Machine

/-! ## Memory primitives and the host's view of FB (spec/20_memory.md rules R62 to R65, R69)

`MemRead` is stated once for every number of bytes, on both sides of its bound; its value is spelt out byte by byte
from `ofNat_bigEndian_succ`, which appends the next byte below those read so far. -/

namespace Sys2Proof.Machine

/-! ### `MemRead` (rule R62) -/

/-- A big-endian number of one more byte is the shorter one with the next byte appended below it. -/
theorem Memory.ofNat_bigEndian_succ (m : Memory) (a n w : Nat) :
    BitVec.ofNat (w + 8) (m.bigEndian a (n + 1)) = BitVec.ofNat w (m.bigEndian a n) ++ m.read (a + n) := by
  have hb := (m.read (a + n)).isLt
  have hlow : m.bigEndian a (n + 1) % 2 ^ 8 = (m.read (a + n)).toNat := by
    rw [Memory.bigEndian]; omega
  have hhigh : m.bigEndian a (n + 1) / 2 ^ 8 = m.bigEndian a n := by
    rw [Memory.bigEndian]; omega
  apply BitVec.eq_of_toNat_eq
  rw [Memory.toNat_append8, BitVec.toNat_ofNat, BitVec.toNat_ofNat, Nat.pow_add, Nat.mul_comm (2 ^ w),
    Nat.mod_mul, hlow, hhigh]
  omega

theorem Memory.ofNat_bigEndian_one (m : Memory) (a : Nat) : BitVec.ofNat 8 (m.bigEndian a 1) = m.read a := by
  simp [Memory.bigEndian_one]

namespace RawFrame

theorem memRead_eq_none_iff (f : RawFrame) (a n : Nat) : f.memRead a (8 * n) = none ↔ a + n > f.flen := by
  simp [memRead]

theorem memRead_eq_some {f : RawFrame} {a n : Nat} (h : a + n ≤ f.flen) :
    f.memRead a (8 * n) = some (BitVec.ofNat (8 * n) (f.fb.bigEndian a n)) := by
  simp [memRead, Nat.not_lt.2 h]

end RawFrame

/-- Settles O7: the bound and the value of `MemRead` for every number of bytes, the value then taken apart one byte at
a time from its low end. -/
theorem memReadIsBoundedAndBigEndian : Obligations.MemReadIsBoundedAndBigEndian := by
  intro f a
  refine ⟨fun n _ => f.memRead_eq_none_iff a n, fun h => ?one, fun h => ?two, fun h => ?four, fun h => ?six⟩
  case one => rw [RawFrame.memRead_eq_some (n := 1) h, Memory.ofNat_bigEndian_one]
  case two => rw [RawFrame.memRead_eq_some (n := 2) h, f.fb.ofNat_bigEndian_succ, Memory.ofNat_bigEndian_one]
  case four =>
    rw [RawFrame.memRead_eq_some (n := 4) h]
    iterate 3 rw [f.fb.ofNat_bigEndian_succ]
    rw [Memory.ofNat_bigEndian_one]
  case six =>
    rw [RawFrame.memRead_eq_some (n := 6) h]
    iterate 5 rw [f.fb.ofNat_bigEndian_succ]
    rw [Memory.ofNat_bigEndian_one]

/-! ### The cursor primitives (rules R63 to R65) -/

/-- Settles O8: each primitive on both sides of its bound, from the laws of `MemRead`, `take` and `slice`. -/
theorem cursorPrimitives : Obligations.CursorPrimitives := by
  intro f stage cur n
  have hbytes : 8 * n / 8 = n := Nat.mul_div_cancel_left n (by decide)
  refine ⟨fun h => ⟨?_, RawFrame.slice_error stage h⟩, fun h => ⟨⟨_, RawFrame.memRead_eq_some h, ?_⟩,
    RawFrame.slice_ok stage h⟩, rfl⟩
  · exact RawFrame.take_error stage (by rwa [hbytes])
  · rw [RawFrame.take_ok stage (by rwa [hbytes]), hbytes]

/-! ### The host's reads and writes of FB (rule R69) -/

namespace State

theorem hostFBWrite_below {s : State} {a : Half} (b : Byte) (h : a.toNat < s.cfg.fbBytes) :
    s.hostFBWrite a b = { s.withoutView with fb := s.fb.write a.toNat b } := if_pos h

theorem hostFBWrite_above {s : State} {a : Half} (b : Byte) (h : s.cfg.fbBytes ≤ a.toNat) :
    s.hostFBWrite a b = s := if_neg (Nat.not_lt.2 h)

end State

/-- Settles O36: one step serves the transaction, which reads one byte or writes on one side of FB_BYTES. -/
theorem hostBufferTransactions : Obligations.HostBufferTransactions := by
  intro s a b rest
  refine ⟨fun hp => ?read, fun hp h => ?writeBelow, fun hp h => ?writeAbove⟩
  all_goals rw [step_cons hp]
  case read => rfl
  case writeBelow => exact congrArg Host.Outcome.next (State.hostFBWrite_below b h)
  case writeAbove => exact congrArg Host.Outcome.next (State.hostFBWrite_above b h)

end Sys2Proof.Machine

/-! ## The legal command words (spec/30_encoding.md rules R90 to R94)

Three descriptions of one set of words: those the decoder accepts, those whose fields are legal, and the twelve of
rule R91. Each is the range of `encode`, which is what the obligation's proof goes through. -/

namespace Sys2Proof

/-! ### Words and their fields (rule R90) -/

/-- The five fields of a word are all of it. -/
theorem wordOf_fieldsOf (w : Word) : wordOf (fieldsOf w) = w := by
  apply BitVec.eq_of_getLsbD_eq
  intro k hk
  simp only [wordOf, fieldsOf, BitVec.getLsbD_append, BitVec.getLsbD_extractLsb', BitVec.getLsbD_ofBool]
  interval_cases k <;> rfl

/-- What the law of each command says, of every command. -/
theorem encode_statement (i : Instr) : Laws.EncodeLegal.Statement i := by
  cases i with
  | nop => exact Laws.EncodeLegal.nop
  | clr => exact Laws.EncodeLegal.clr
  | parse => exact Laws.EncodeLegal.parse
  | parsec => exact Laws.EncodeLegal.parsec
  | cksum => exact Laws.EncodeLegal.cksum
  | verify => exact Laws.EncodeLegal.verify
  | csumr => exact Laws.EncodeLegal.csumr
  | verifyr => exact Laws.EncodeLegal.verifyr
  | patch c l => exact Laws.EncodeLegal.patch c l

theorem fieldsOf_encode (i : Instr) : fieldsOf (encode i) = i.fields := (encode_statement i).1

theorem Instr.fields_legal (i : Instr) : i.WellFormed := (encode_statement i).2.1

/-- A word is the word of the command whose fields it has. -/
theorem fieldsOf_eq_fields_iff {w : Word} {i : Instr} : fieldsOf w = i.fields ↔ encode i = w := by
  constructor
  · intro h
    rw [encode, ← h, wordOf_fieldsOf]
  · rintro rfl
    exact fieldsOf_encode i

/-! ### The decoder accepts the range of the encoder (rules R91, R92) -/

/-- The opcode map gives only the command whose operation code and flags it was given. -/
theorem eq_fields_of_decodeFields {f : CommandFields} {i : Instr} (hhigh : f.zeroHigh = 0#16)
    (hlow : f.zeroLow = 0#6) (h : decodeFields f = .ok i) : f = i.fields := by
  obtain ⟨opc, c, l, low, high⟩ := f
  dsimp only at hhigh hlow
  subst hhigh hlow
  simp only [decodeFields] at h
  -- an arm that answers fixes the operation code, and every one but PATCH's has tested that the flags are clear
  split_ifs at h <;> cases h <;> simp_all [Instr.fields, Instr.opc]

/-- The opcode map finds every command under its fields. -/
theorem decodeFields_fields (i : Instr) : decodeFields i.fields = .ok i := by
  cases i <;> rfl

theorem decode_eq_ok_iff {w : Word} {i : Instr} : decode w = .ok i ↔ encode i = w := by
  constructor
  · intro h
    rw [decode] at h
    split_ifs at h with hhigh hlow
    exact fieldsOf_eq_fields_iff.1 (eq_fields_of_decodeFields (not_not.1 hhigh) (not_not.1 hlow) h)
  · rintro rfl
    rw [decode, fieldsOf_encode]
    exact decodeFields_fields i

/-! ### So do the legal fields and the table (rules R91, R94) -/

namespace CommandFields

theorem legal_iff (f : CommandFields) :
    f.legal = true ↔ f.zeroHigh = 0#16 ∧ f.zeroLow = 0#6 ∧
      f.opc ∈ [0x00#8, 0x01#8, 0x10#8, 0x11#8, 0x20#8, 0x21#8, 0x22#8, 0x23#8, 0x30#8] ∧
      (f.opc = 0x30#8 ∨ f.c = false ∧ f.l = false) := by
  simp only [legal, highClear, lowClear, opcAssigned, flagsAllowed, Bool.and_eq_true, Bool.or_eq_true,
    beq_iff_eq, Bool.not_eq_true', List.contains_iff_mem, and_assoc]

/-- Legal fields are the fields of a command: the operation code names it, and a flag stands in PATCH alone. -/
theorem legal_iff_exists_fields (f : CommandFields) : f.legal = true ↔ ∃ i : Instr, f = i.fields := by
  constructor
  · intro h
    obtain ⟨opc, c, l, low, high⟩ := f
    obtain ⟨hhigh, hlow, hopc, hflags⟩ := (legal_iff _).1 h
    dsimp only at hhigh hlow hopc hflags
    subst hhigh hlow
    by_cases hpatch : opc = 0x30#8
    · exact ⟨.patch c l, by rw [hpatch]; rfl⟩
    obtain ⟨rfl, rfl⟩ := hflags.resolve_left hpatch
    simp only [List.mem_cons, List.not_mem_nil, or_false, hpatch] at hopc
    rcases hopc with rfl | rfl | rfl | rfl | rfl | rfl | rfl | rfl
    exacts [⟨.nop, rfl⟩, ⟨.clr, rfl⟩, ⟨.parse, rfl⟩, ⟨.parsec, rfl⟩, ⟨.cksum, rfl⟩, ⟨.verify, rfl⟩,
      ⟨.csumr, rfl⟩, ⟨.verifyr, rfl⟩]
  · rintro ⟨i, rfl⟩
    exact i.fields_legal

end CommandFields

end Sys2Proof

namespace Sys2Proof.Machine

/-- w[9:8] = 0 says that both flags are clear. -/
theorem flagBits_eq_zero_iff (w : Word) :
    w.extractLsb' 8 2 = 0#2 ↔ w.getLsbD 8 = false ∧ w.getLsbD 9 = false := by
  constructor
  · intro h
    exact ⟨by simpa using congrArg (·.getLsbD 0) h, by simpa using congrArg (·.getLsbD 1) h⟩
  · rintro ⟨h8, h9⟩
    apply BitVec.eq_of_getLsbD_eq
    intro k hk
    interval_cases k
    · simpa using h8
    · simpa using h9

/-- The rule's `Legal` on the bits of a word is the decoder's check on its fields (rule R94). -/
theorem legalWord_iff_legal (w : Word) : LegalWord w ↔ (fieldsOf w).legal = true := by
  rw [CommandFields.legal_iff, LegalWord, flagBits_eq_zero_iff]
  rfl

theorem legalWord_iff_exists_encode (w : Word) : LegalWord w ↔ ∃ i, encode i = w := by
  simp only [legalWord_iff_legal, CommandFields.legal_iff_exists_fields, fieldsOf_eq_fields_iff]

/-- Every command, PATCH with each setting of its flags. -/
def commands : List Instr :=
  [.nop, .clr, .parse, .parsec, .cksum, .verify, .csumr, .verifyr,
   .patch false false, .patch true false, .patch false true, .patch true true]

theorem mem_commands (i : Instr) : i ∈ commands := by
  cases i with
  | patch c l => cases c <;> cases l <;> decide
  | _ => decide

theorem map_encode_commands : commands.map encode = legalWords := by decide

theorem legalWord_iff_mem_legalWords (w : Word) : LegalWord w ↔ w ∈ legalWords := by
  rw [legalWord_iff_exists_encode, ← map_encode_commands]
  simp only [List.mem_map, mem_commands, true_and]

theorem exists_decode_iff_legalWord (w : Word) : (∃ i, decode w = .ok i) ↔ LegalWord w := by
  simp only [decode_eq_ok_iff, legalWord_iff_exists_encode]

/-! ### An illegal word written to CMD (rules R92, R214) -/

theorem execWord_of_not_legalWord {w : Word} (h : ¬ LegalWord w) (s : State) :
    execWord w s = .next s.illegalCommand := by
  rw [execWord]
  cases hd : decode w with
  | error e => rfl
  | ok i => exact absurd ((exists_decode_iff_legalWord w).1 ⟨i, hd⟩) h

/-- A write of an illegal word is one step, and its whole effect is the illegal command's. -/
theorem step_of_not_legalWord {s : State} {w : Word} {rest : List HostInput}
    (hp : s.pending = .write 0x00#6 w :: rest) (h : ¬ LegalWord w) :
    step s = .next { s with pending := rest, reply := .nothing }.illegalCommand := by
  rw [step_cons hp, serve_command, execWord_of_not_legalWord h]

/-- Settles O2: the words decoded, the legal words and the twelve are one set, and a step on any other word raises
IllegalCmd. -/
theorem legalWordsAreTheTwelve : Obligations.LegalWordsAreTheTwelve := fun w =>
  ⟨exists_decode_iff_legalWord w, legalWord_iff_mem_legalWords w, fun h _ _ hp =>
    ⟨_, step_of_not_legalWord hp h, State.raise_err _ _⟩⟩

end Sys2Proof.Machine

/-! ## The multiplexer (spec/41_dispatch.md rules R140, R141)

A selection compares words; the rules name the values. The one fact between them is that a word is determined by its
number, so each known variant is selected at one number and at no other. -/

namespace Sys2Proof.Machine

theorem eq_ethertypeIpv4_iff_toNat (e : Half) : e = ethertypeIpv4 ↔ e.toNat = 2048 :=
  BitVec.toNat_inj.symm

theorem eq_protoTcp_iff_toNat (p : Byte) : p = protoTcp ↔ p.toNat = 6 :=
  BitVec.toNat_inj.symm

theorem eq_protoUdp_iff_toNat (p : Byte) : p = protoUdp ↔ p.toNat = 17 :=
  BitVec.toNat_inj.symm

theorem selectL3_eq (e : Half) : selectL3 e = if e.toNat = 2048 then .ipv4 else .unknown := by
  simp only [selectL3, eq_ethertypeIpv4_iff_toNat]

@[simp] theorem selectL4_none : selectL4 none = .unknown := rfl

theorem selectL4_some (p : Byte) :
    selectL4 (some p) = if p.toNat = 6 then .tcp else if p.toNat = 17 then .udp else .unknown := by
  simp only [selectL4, eq_protoTcp_iff_toNat, eq_protoUdp_iff_toNat]

/-- Settles O6: each comparison of words is the rule's comparison of numbers, and the absent key is the first case of
SelectL4. -/
theorem tagSelectionByValue : Obligations.TagSelectionByValue :=
  ⟨selectL3_eq, selectL4_none, selectL4_some⟩

end Sys2Proof.Machine

/-! ## NOP and CLR (spec/42_frame_commands.md rules R150, R151)

A word the decoder accepts is the word of its command, so with operation code 0 it is NOP's word, 0. CLR is
`BeginCommand()`, `DropView()` and CUR = 0, and each of the three gives its registers their reset values. -/

namespace Sys2Proof

/-- Operation code 0 is NOP's alone (rule R91). -/
theorem Instr.opc_eq_zero_iff {i : Instr} : i.opc = 0x00#8 ↔ i = .nop := by
  cases i <;> simp [Instr.opc]

theorem encode_nop : encode .nop = 0#32 := by decide

/-- Bits [7:0] of an accepted word are the operation code of its command. -/
theorem extractLsb'_eq_opc_of_decode {w : Word} {i : Instr} (h : decode w = .ok i) :
    w.extractLsb' 0 8 = i.opc :=
  congrArg CommandFields.opc (fieldsOf_eq_fields_iff.2 (decode_eq_ok_iff.1 h))

/-- The only command word with operation code 0 is 0 (rule R150). -/
theorem eq_zero_of_decode_of_opc_eq_zero {w : Word} {i : Instr} (h : decode w = .ok i)
    (hopc : w.extractLsb' 0 8 = 0x00#8) : w = 0#32 := by
  have hnop : i = .nop := Instr.opc_eq_zero_iff.1 ((extractLsb'_eq_opc_of_decode h).symm.trans hopc)
  rw [← decode_eq_ok_iff.1 h, hnop, encode_nop]

end Sys2Proof

namespace Sys2Proof.Machine

theorem exec_nop (s : State) : exec .nop s = .next s := rfl

theorem exec_clr (s : State) : exec .clr s = .next { s.beginCommand.dropView with cur := 0#16 } := rfl

/-- Settles O10: NOP answers its own state, and the only command word with operation code 0 is 0. -/
theorem nopChangesNothing : Obligations.NopChangesNothing :=
  ⟨exec_nop, fun _ hopc hne _ h => hne (eq_zero_of_decode_of_opc_eq_zero h hopc)⟩

/-- Settles O11: the scalars are those of `BeginCommand()`, the view and its groups those of `DropView()`, and
neither touches another register. -/
theorem clrClearsTheResults : Obligations.ClrClearsTheResults := by
  intro s
  rw [exec_clr, State.beginCommand_eq_withScalars, State.dropView_eq_withoutView]
  rfl

end Sys2Proof.Machine

/-! ## The checksum engine (spec/43_checksum.md rules R170 to R176)

The engine sums from the last word and folds with a loop; the rules pair from the first byte and take a residue. Here
each is brought to the other: the range from its front, the fold as the one's-complement sum of rule R187. -/

namespace Sys2Proof.Machine

/-! ### `Sum16` (rule R170) -/

theorem sum16_zero (m : Memory) (a : Nat) : sum16 m a 0 = 0 := rfl

/-- The only byte of a range is a high byte. -/
theorem sum16_one (m : Memory) (a : Nat) : sum16 m a 1 = (m.read a).toNat * 256 := by
  simp [sum16, wordSum, Nat.shiftLeft_eq]

/-- The first word taken off a range; its last byte, if odd, stays the last. -/
theorem sum16_add_two (m : Memory) (a n : Nat) :
    sum16 m a (n + 2) = m.bigEndian a 2 + sum16 m (a + 2) n := by
  have hhalf : (n + 2) / 2 = n / 2 + 1 := by omega
  have hlast : a + (n + 2) - 1 = a + 2 + n - 1 := by omega
  rw [sum16, hhalf, wordSum_front, hlast, Nat.add_mod_right, sum16, Nat.add_assoc]

theorem sum16_eq_wordsFrom (m : Memory) (a n : Nat) : sum16 m a n = wordsFrom m a n := by
  induction a, n using wordsFrom.induct with
  | case1 a => exact sum16_zero m a
  | case2 a => exact sum16_one m a
  | case3 a n ih => rw [sum16_add_two, ih, Memory.bigEndian_two_bytes, wordsFrom]

/-- Settles O19: both sums take the first word off the front and continue two bytes on. -/
theorem sumPairsFromTheFirstByte : Obligations.SumPairsFromTheFirstByte := sum16_eq_wordsFrom

theorem sum16_le (m : Memory) (a n : Nat) : sum16 m a n ≤ n / 2 * 65535 + n % 2 * 65280 := by
  have hwords := wordSum_le m a (n / 2)
  have hbyte := (m.read (a + n - 1)).isLt
  rw [sum16, Nat.shiftLeft_eq]
  split
  · next hodd =>
    rw [hodd]
    omega
  · exact Nat.le_add_right_of_le hwords

/-! ### `Fold` (rule R172) -/

/-- The loop stops at a 16-bit value. -/
theorem foldLoop_of_lt (k : Nat) {x : Nat} (h : x < 65536) : foldLoop k x = x := by
  cases k with
  | zero => rfl
  | succ k => rw [foldLoop_succ, if_neg (not_not.2 (Nat.div_eq_of_lt h))]

/-- Before that, each pass is one of the loop's. -/
theorem foldLoop_of_ge (k : Nat) {x : Nat} (h : 65536 ≤ x) :
    foldLoop (k + 1) x = foldLoop k (x % 65536 + x / 65536) := by
  rw [foldLoop_succ, if_pos (Nat.div_pos h (by decide)).ne']

/-- Passes of the loop add up. -/
theorem foldLoop_add (j k x : Nat) : foldLoop (j + k) x = foldLoop k (foldLoop j x) := by
  induction j generalizing x with
  | zero => rw [Nat.zero_add, foldLoop_zero]
  | succ j ih =>
    rcases Nat.lt_or_ge x 65536 with hlt | hge
    · rw [foldLoop_of_lt _ hlt, foldLoop_of_lt _ hlt, foldLoop_of_lt _ hlt]
    · rw [Nat.add_right_comm, foldLoop_of_ge _ hge, foldLoop_of_ge _ hge, ih]

/-- Every number of passes keeps the residue, and keeps a positive value positive. -/
theorem foldLoop_residue (k x : Nat) :
    foldLoop k x % 65535 = x % 65535 ∧ (0 < x → 0 < foldLoop k x) := by
  induction k generalizing x with
  | zero => exact ⟨rfl, id⟩
  | succ k ih =>
    rcases Nat.lt_or_ge x 65536 with hlt | hge
    · rw [foldLoop_of_lt _ hlt]
      exact ⟨rfl, id⟩
    · obtain ⟨hmod, hpos⟩ := fold_pass x
      obtain ⟨ihmod, ihpos⟩ := ih (x % 65536 + x / 65536)
      rw [foldLoop_of_ge _ hge]
      exact ⟨ihmod.trans hmod, ihpos ∘ hpos⟩

theorem fold_mod (x : Nat) : fold x % 65535 = x % 65535 := (foldLoop_residue 2 x).1

theorem fold_eq_zero_iff (x : Nat) : fold x = 0 ↔ x = 0 := by
  constructor
  · intro h
    by_contra hx
    exact absurd h ((foldLoop_residue 2 x).2 (Nat.pos_of_ne_zero hx)).ne'
  · rintro rfl
    rfl

/-- Two passes suffice for 32 bits: the first leaves at most 0x1FFFE, whose carry the second adds without another. -/
theorem fold_lt {x : Nat} (h : x < 2 ^ 32) : fold x < 65536 := by
  rw [fold, foldLoop_succ]
  split
  · rw [foldLoop_succ, foldLoop_zero]
    split <;> omega
  · omega

/-- The residue and the range leave one value (rule R187). -/
theorem fold_eq_onesSum {x : Nat} (hpos : 0 < x) (h : x < 2 ^ 32) : fold x = onesSum x := by
  have hlt := fold_lt h
  have hmod := fold_mod x
  have hzero := fold_eq_zero_iff x
  rw [onesSum]
  omega

/-- A third pass and more change nothing. -/
theorem foldLoop_eq_fold {n x : Nat} (hn : 2 ≤ n) (h : x < 2 ^ 32) : foldLoop n x = fold x := by
  obtain ⟨k, rfl⟩ := Nat.exists_eq_add_of_le hn
  rw [foldLoop_add]
  exact foldLoop_of_lt k (fold_lt h)

/-- Settles O20: each pass keeps the residue, and two end below 2^16. -/
theorem foldOfAThirtyTwoBitAccumulator : Obligations.FoldOfAThirtyTwoBitAccumulator :=
  ⟨fun x hx => ⟨fold_lt hx, fold_mod x, fold_eq_zero_iff x, fun hpos => fold_eq_onesSum hpos hx,
    fun _ hn => foldLoop_eq_fold hn hx⟩, by decide⟩

/-! ### The complement (rules R174, R175, R187) -/

theorem onesSum_le (x : Nat) : onesSum x ≤ 65535 := by
  rw [onesSum]
  omega

theorem complementFold_toNat {x : Nat} (hpos : 0 < x) (h : x < 2 ^ 32) :
    (complementFold x).toNat = 65535 - onesSum x := by
  have hle := onesSum_le x
  rw [complementFold, fold_eq_onesSum hpos h, BitVec.toNat_not, BitVec.toNat_ofNat]
  omega

theorem complementFold_eq {x : Nat} (hpos : 0 < x) (h : x < 2 ^ 32) :
    complementFold x = BitVec.ofNat 16 (65535 - onesSum x) := by
  rw [← complementFold_toNat hpos h, BitVec.ofNat_toNat, BitVec.setWidth_eq]

theorem complementFold_eq_zero_iff {x : Nat} (hpos : 0 < x) (h : x < 2 ^ 32) :
    complementFold x = 0#16 ↔ onesSum x = 65535 := by
  have hle := onesSum_le x
  rw [← BitVec.toNat_inj, complementFold_toNat hpos h, BitVec.toNat_zero]
  omega

/-! ### The two accumulators (rules R174 to R176) -/

theorem checksumAcc_eq_fieldlessSum (m : Memory) (x : EngineArgs) (off : Nat) :
    checksumAcc m x off = fieldlessSum m x off := by
  rw [checksumAcc, fieldlessSum, pseudo_eq, sum16_eq_wordsFrom, sum16_eq_wordsFrom]

theorem verifyAcc_eq_wholeSum (m : Memory) (x : EngineArgs) : verifyAcc m x = wholeSum m x := by
  rw [verifyAcc, wholeSum, pseudo_eq, sum16_eq_wordsFrom]

theorem pseudo_le (src dst : Word) (p : Byte) {len : Nat} (h : len ≤ 65535) :
    pseudo src dst p len ≤ 0x500FA := by
  have hsrc := src.isLt
  have hdst := dst.isLt
  have hp := p.isLt
  rw [pseudo_eq]
  omega

theorem verifyAcc_le (m : Memory) (x : EngineArgs) : verifyAcc m x ≤ 0x80047FFB := by
  have hlen := x.seg.len.isLt
  have hpseudo := pseudo_le x.src x.dst x.proto (Nat.le_of_lt_succ hlen)
  have hsum := sum16_le m x.seg.off.toNat x.seg.len.toNat
  rw [verifyAcc]
  omega

theorem checksumAcc_le (m : Memory) {x : EngineArgs} {off : Nat} (h : FieldOffset x.proto off)
    (hl : off + 2 ≤ x.seg.len.toNat) : checksumAcc m x off ≤ 0x80047FFB := by
  have hlen := x.seg.len.isLt
  have hpseudo := pseudo_le x.src x.dst x.proto (Nat.le_of_lt_succ hlen)
  have hfirst := sum16_le m x.seg.off.toNat off
  have hlast := sum16_le m (x.seg.off.toNat + off + 2) (x.seg.len.toNat - off - 2)
  have heven : off % 2 = 0 := by
    rcases h with ⟨-, rfl⟩ | ⟨-, rfl⟩ <;> rfl
  rw [checksumAcc]
  omega

theorem verifyAcc_pos (m : Memory) {x : EngineArgs} {off : Nat} (h : FieldOffset x.proto off) :
    0 < verifyAcc m x :=
  Nat.add_pos_left (pseudo_pos h) _

theorem checksumAcc_pos (m : Memory) {x : EngineArgs} {off : Nat} (h : FieldOffset x.proto off) :
    0 < checksumAcc m x off :=
  Nat.add_pos_left (Nat.add_pos_left (pseudo_pos h) _) _

/-! ### What the engine answers (rules R174, R175) -/

theorem checksum_eq_onesSum {m : Memory} {x : EngineArgs} {off : Nat} (h : FieldOffset x.proto off)
    (hl : off + 2 ≤ x.seg.len.toNat) :
    checksum m x = .ok (BitVec.ofNat 16 (65535 - onesSum (fieldlessSum m x off))) := by
  have hlt : checksumAcc m x off < 2 ^ 32 := (checksumAcc_le m h hl).trans_lt (by decide)
  rw [checksum_ok h hl, complementFold_eq (checksumAcc_pos m h) hlt, checksumAcc_eq_fieldlessSum]

theorem verdict_eq_onesSum {m : Memory} {x : EngineArgs} (h : supported x.proto = true) :
    verdict m x = decide (onesSum (wholeSum m x) = 65535) := by
  obtain ⟨off, hoff⟩ := field_of_supported h
  have hlt : verifyAcc m x < 2 ^ 32 := (verifyAcc_le m x).trans_lt (by decide)
  rw [verdict, Bool.eq_iff_iff, beq_iff_eq, decide_eq_true_iff,
    complementFold_eq_zero_iff (verifyAcc_pos m hoff) hlt, verifyAcc_eq_wholeSum]

end Sys2Proof.Machine

/-! ## The checksum commands (spec/43_checksum.md rules R177 to R181)

Each command tests its conditions in order and then hands on what the engine answers on its arguments: one equation
per command, from the list of its endings (`exec_cksum_cases` and its like). -/

namespace Sys2Proof.Machine

/-! ### The conditions the commands test (rules R173, R177, R180) -/

theorem supported_eq_true {p : Byte} : supported p = true ↔ ¬ Unsupported p := by
  rw [← supported_eq_false, Bool.not_eq_false]

namespace State

theorem viewUnsupported_eq_true {s : State} :
    s.viewUnsupported = true ↔ s.status.l3tag ≠ .ipv4 ∨ Unsupported s.ip4.proto := by
  rw [viewUnsupported, Bool.or_eq_true, bne_iff_ne, Bool.not_eq_true', supported_eq_false]

theorem not_viewUnsupported {s : State} (h3 : s.status.l3tag = .ipv4) (hp : supported s.ip4.proto = true) :
    ¬ s.viewUnsupported = true :=
  fun h => (viewUnsupported_eq_true.1 h).elim (absurd h3) (supported_eq_true.1 hp)

theorem windowOutside_eq_true {s : State} :
    s.windowOutside = true ↔ s.flen.toNat < s.opSeg.off.toNat + s.opSeg.len.toNat :=
  decide_eq_true_iff

theorem not_windowOutside {s : State} (h : s.opSeg.off.toNat + s.opSeg.len.toNat ≤ s.flen.toNat) :
    ¬ s.windowOutside = true :=
  fun hw => absurd h (Nat.not_le.2 (windowOutside_eq_true.1 hw))

end State

/-! ### What each command answers -/

/-- What CKSUM and CSUMR make of the engine's answer: the error raised, or the checksum delivered. -/
def State.withAnswer (s : State) : Except Error Half → State
  | .error e => s.withScalars e.code e.stage false false false 0#16
  | .ok c => s.withScalars .ok .none true false false c

/-- CKSUM (rule R178). -/
theorem exec_cksum (s : State) : exec .cksum s = .next (
    if s.status.view ≠ .checksum then s.withScalars .noView .none false false false 0#16
    else if s.viewUnsupported = true then s.withScalars .unsupportedProtocol .none false false false 0#16
    else s.withAnswer (checksum s.fb s.viewArgs)) := by
  obtain ⟨t, ht⟩ := exec_next .cksum s
  rw [ht]
  rcases exec_cksum_cases ht with ⟨hv, rfl⟩ | ⟨hv, hu, rfl⟩ | ⟨hv, hu, ⟨e, he, rfl⟩ | ⟨c, hc, rfl⟩⟩
  · rw [if_pos hv]; rfl
  · rw [if_neg (not_not.2 hv), if_pos hu]; rfl
  · rw [if_neg (not_not.2 hv), if_neg (ne_true_of_eq_false hu), he]; rfl
  · rw [if_neg (not_not.2 hv), if_neg (ne_true_of_eq_false hu), hc]; rfl

/-- VERIFY (rule R179). -/
theorem exec_verify (s : State) : exec .verify s = .next (
    if s.status.view ≠ .checksum then s.withScalars .noView .none false false false 0#16
    else if s.viewUnsupported = true then s.withScalars .unsupportedProtocol .none false true false 0#16
    else s.withScalars .ok .none false true (verdict s.fb s.viewArgs) 0#16) := by
  obtain ⟨t, ht⟩ := exec_next .verify s
  rw [ht]
  rcases exec_verify_cases ht with ⟨hv, rfl⟩ | ⟨hv, hu, rfl⟩ | ⟨hv, hu, rfl⟩
  · rw [if_pos hv]; rfl
  · rw [if_neg (not_not.2 hv), if_pos hu]; rfl
  · rw [if_neg (not_not.2 hv), if_neg (ne_true_of_eq_false hu)]; rfl

/-- CSUMR (rule R180). -/
theorem exec_csumr (s : State) : exec .csumr s = .next (
    if supported s.opProto = false then s.withScalars .unsupportedProtocol .none false false false 0#16
    else if s.windowOutside = true then s.withScalars .truncated .seg false false false 0#16
    else s.withAnswer (checksum s.fb s.hostArgs)) := by
  obtain ⟨t, ht⟩ := exec_next .csumr s
  rw [ht]
  rcases exec_csumr_cases ht with ⟨hp, rfl⟩ | ⟨hp, hw, rfl⟩ | ⟨hp, hw, ⟨e, he, rfl⟩ | ⟨c, hc, rfl⟩⟩
  · rw [if_pos hp]; rfl
  · rw [if_neg (ne_false_of_eq_true hp), if_pos hw]; rfl
  · rw [if_neg (ne_false_of_eq_true hp), if_neg (ne_true_of_eq_false hw), he]; rfl
  · rw [if_neg (ne_false_of_eq_true hp), if_neg (ne_true_of_eq_false hw), hc]; rfl

/-- VERIFYR (rule R181). -/
theorem exec_verifyr (s : State) : exec .verifyr s = .next (
    if supported s.opProto = false then s.withScalars .unsupportedProtocol .none false true false 0#16
    else if s.windowOutside = true then s.withScalars .truncated .seg false false false 0#16
    else s.withScalars .ok .none false true (verdict s.fb s.hostArgs) 0#16) := by
  obtain ⟨t, ht⟩ := exec_next .verifyr s
  rw [ht]
  rcases exec_verifyr_cases ht with ⟨hp, rfl⟩ | ⟨hp, hw, rfl⟩ | ⟨hp, hw, rfl⟩
  · rw [if_pos hp]; rfl
  · rw [if_neg (ne_false_of_eq_true hp), if_pos hw]; rfl
  · rw [if_neg (ne_false_of_eq_true hp), if_neg (ne_true_of_eq_false hw)]; rfl

/-! ### The commands by cases -/

/-- Settles O25: the conditions in their order, then the engine's answer on the held view. -/
theorem cksumByCases : Obligations.CksumByCases := by
  intro s
  refine ⟨fun hv => ?noView, fun hv hu => ?unsupported, fun off hv h3 hf hl => ?short,
    fun off hv h3 hf hl => ?value⟩
  all_goals rw [exec_cksum]
  case noView => rw [if_pos hv]
  case unsupported => rw [if_neg (not_not.2 hv), if_pos (State.viewUnsupported_eq_true.2 hu)]
  case short =>
    rw [if_neg (not_not.2 hv), if_neg (State.not_viewUnsupported h3 (supported_of_field hf)),
      checksum_short hf hl]
    rfl
  case value =>
    rw [if_neg (not_not.2 hv), if_neg (State.not_viewUnsupported h3 (supported_of_field hf)),
      checksum_eq_onesSum hf hl]
    rfl

/-- Settles O26: the conditions in their order, then the engine's verdict on the held view. -/
theorem verifyByCases : Obligations.VerifyByCases := by
  intro s
  refine ⟨fun hv => ?noView, fun hv hu => ?unsupported, fun hv h3 hp => ?verdict⟩
  all_goals rw [exec_verify]
  case noView => rw [if_pos hv]
  case unsupported => rw [if_neg (not_not.2 hv), if_pos (State.viewUnsupported_eq_true.2 hu)]
  case verdict =>
    have hs : supported s.ip4.proto = true := supported_eq_true.2 fun hu => hp.elim hu.1 hu.2
    rw [if_neg (not_not.2 hv), if_neg (State.not_viewUnsupported h3 hs), verdict_eq_onesSum hs]
    rfl

/-- Settles O27: the conditions in their order, then the engine's answer on the operand registers. -/
theorem csumrByCases : Obligations.CsumrByCases := by
  intro s
  refine ⟨fun hu => ?unsupported, fun hp hw => ?outside, fun off hf hw hl => ?short,
    fun off hf hw hl => ?value⟩
  all_goals rw [exec_csumr]
  case unsupported => rw [if_pos (supported_eq_false.2 hu)]
  case outside => rw [if_neg (mt supported_eq_false.1 hp), if_pos (State.windowOutside_eq_true.2 hw)]
  case short =>
    rw [if_neg (ne_false_of_eq_true (supported_of_field hf)), if_neg (State.not_windowOutside hw),
      checksum_short hf hl]
    rfl
  case value =>
    rw [if_neg (ne_false_of_eq_true (supported_of_field hf)), if_neg (State.not_windowOutside hw),
      checksum_eq_onesSum hf hl]
    rfl

/-- Settles O28: the conditions in their order, then the engine's verdict on the operand registers. -/
theorem verifyrByCases : Obligations.VerifyrByCases := by
  intro s
  refine ⟨fun hu => ?unsupported, fun hp hw => ?outside, fun hp hw => ?verdict⟩
  all_goals rw [exec_verifyr]
  case unsupported => rw [if_pos (supported_eq_false.2 hu)]
  case outside => rw [if_neg (mt supported_eq_false.1 hp), if_pos (State.windowOutside_eq_true.2 hw)]
  case verdict =>
    rw [if_neg (mt supported_eq_false.1 hp), if_neg (State.not_windowOutside hw),
      verdict_eq_onesSum (supported_eq_true.2 hp)]
    rfl

end Sys2Proof.Machine

/-! ## Errors (spec/60_exceptions.md rules R214, R221)

An illegal word is `BeginCommand()` and a raise, which together change the scalar results alone. That no error is
fatal is said from the inside out: every command answers (`exec_next`), so every command word does, every
transaction, every step, and by induction on its length every run. -/

namespace Sys2Proof.Machine

/-- Settles O5: the step on an illegal word is the illegal command, a raise right after `BeginCommand()`. -/
theorem illegalWordOnlyReportsIllegalCmd : Obligations.IllegalWordOnlyReportsIllegalCmd :=
  fun _ _ _ hp hw => (step_of_not_legalWord hp hw).trans (congrArg _ (State.raise_beginCommand .illegalCmd _))

/-- A word that does not decode has a next state too: the illegal command's (rule R214). -/
theorem execWord_next (w : Word) (s : State) : ∃ t, execWord w s = .next t := by
  rw [execWord]
  cases decode w with
  | error e => exact ⟨s.illegalCommand, rfl⟩
  | ok i => exact exec_next i s

/-- A write of CMD answers as its word does; every other transaction answers by its definition. -/
theorem serve_next (input : HostInput) (s : State) : ∃ t, serve input s = .next t := by
  cases input with
  | read n => exact ⟨_, rfl⟩
  | fbRead a => exact ⟨_, rfl⟩
  | fbWrite a b => exact ⟨_, rfl⟩
  | reset => exact ⟨_, rfl⟩
  | write n v =>
    by_cases hn : n = RegName.CMD.num
    · subst hn
      exact execWord_next v { s with reply := .nothing }
    · exact ⟨_, if_neg hn⟩

/-- The idle block holds its state (rule R231); any other block serves a transaction. -/
theorem step_next (s : State) : ∃ t, step s = .next t := by
  cases hp : s.pending with
  | nil => exact ⟨s, by rw [step, State.transact, hp]⟩
  | cons input rest =>
    rw [step_cons hp]
    exact serve_next input { s with pending := rest }

theorem run_succ_of_step {M : Host.Core} {s t : M.State} (h : M.step s = .next t) (n : Nat) :
    M.run (n + 1) s = M.run n t := by
  rw [Host.Core.run, h]

/-- A machine whose every step has a next state has one after every run. -/
theorem run_next {M : Host.Core} (hM : ∀ s, ∃ t, M.step s = .next t) (n : Nat) (s : M.State) :
    ∃ t, M.run n s = .next t := by
  induction n generalizing s with
  | zero => exact ⟨s, rfl⟩
  | succ n ih =>
    obtain ⟨t, ht⟩ := hM s
    rw [run_succ_of_step ht]
    exact ih t

/-- Settles O41: steps, runs, and a fault set without constructors. -/
theorem everyStepHasANextState : Obligations.EveryStepHasANextState :=
  ⟨step_next, run_next (M := core) step_next, nofun⟩

end Sys2Proof.Machine

/-! ## PARSE and PARSEC (spec/42_frame_commands.md rules R152 to R156)

The state each leaves is said for the two cases there are: the frame fits, and the commit writes what the layout tables
read; or it does not, and the decode's failure is shown. Which failure it is follows from the header decoders' laws. -/

namespace Sys2Proof.Machine

/-! ### A frame that fits (rules R152, R153) -/

theorem tail_off_toNat {o n : Nat} (h : o ≤ n) (hn : n < 65536) : (Layout.tail o n).off.toNat = o :=
  Nat.mod_eq_of_lt (h.trans_lt hn)

/-- The tail of a frame ends with it. -/
theorem tail_end {o n : Nat} (h : o ≤ n) (hn : n < 65536) :
    (Layout.tail o n).off.toNat + (Layout.tail o n).len.toNat = n := by
  have hlen : (Layout.tail o n).len.toNat = n - o := Nat.mod_eq_of_lt (by omega)
  rw [tail_off_toNat h hn, hlen, Nat.add_sub_cancel' h]

namespace Layout

theorem l3End_of_ipv4 {m : Memory} (h : etype m = 0x0800#16) : l3End m = 14 + ipHlen m := if_pos h

theorem l3End_le {s : State} (h : parsecFits s) : l3End s.fb ≤ s.flen.toNat := by
  obtain ⟨heth, hip⟩ := h
  rw [l3End]
  split
  · next he => exact (hip he).2.2
  · exact heth

theorem l4End_le {s : State} (h : parseFits s) : l4End s.fb ≤ s.flen.toNat := by
  obtain ⟨h3, htcp, hudp⟩ := h
  rw [l4End]
  split
  · next h6 =>
    rw [l3End_of_ipv4 h6.1]
    exact (htcp h6).2.2
  · split
    · next h17 =>
      have hend := hudp h17
      rw [l3End_of_ipv4 h17.1]
      omega
    · exact l3End_le h3

end Layout

/-- The commit of PARSE on what the layout tables decode to is the state they give (rule R152). -/
theorem commitDecoded_layout (s : State) :
    s.beginCommand.dropView.commitDecoded
      { eth := Layout.eth s.fb, l3 := Layout.layer3 s.fb, l4 := Layout.layer4 s.fb
        payload := Layout.tail (Layout.l4End s.fb) s.flen.toNat } s.flen.toNat = Layout.parsed s := by
  by_cases he : Layout.etype s.fb = 0x0800#16
  · by_cases h6 : Layout.proto s.fb = 6#8
    · simp [State.commitDecoded, Layout.parsed, Layout.layer3, Layout.layer4, Layout.isIpv4With, he, h6,
        Layer3.tag, Layer4.tag]
    · by_cases h17 : Layout.proto s.fb = 17#8 <;>
        simp [State.commitDecoded, Layout.parsed, Layout.layer3, Layout.layer4, Layout.isIpv4With, he, h6, h17,
          Layer3.tag, Layer4.tag]
  · simp [State.commitDecoded, Layout.parsed, Layout.layer3, Layout.layer4, Layout.isIpv4With, he,
      Layer3.tag, Layer4.tag]

/-- The commit of PARSEC on what the layout tables decode to is the state they give (rule R153). -/
theorem commitChecksumFrame_layout (s : State) :
    s.beginCommand.dropView.commitChecksumFrame
      { eth := Layout.eth s.fb, l3 := Layout.layer3 s.fb
        remain := Layout.tail (Layout.l3End s.fb) s.flen.toNat } s.flen.toNat = Layout.parsedChecksum s := by
  by_cases he : Layout.etype s.fb = 0x0800#16 <;>
    simp [State.commitChecksumFrame, Layout.parsedChecksum, Layout.layer3, he, Layer3.tag]

theorem exec_parse_of_fits {s : State} (h : Layout.parseFits s) : exec .parse s = .next (Layout.parsed s) := by
  rw [execParse_of_ok (decodeFrame_ok h), commitDecoded_layout]

theorem exec_parsec_of_fits {s : State} (h : Layout.parsecFits s) :
    exec .parsec s = .next (Layout.parsedChecksum s) := by
  rw [execParsec_of_ok (decodeChecksumFrame_ok h), commitChecksumFrame_layout]

/-- Settles O12: the commit's state, whose payload is the tail of the frame behind the last header. -/
theorem parseDeliversTheLayout : Obligations.ParseDeliversTheLayout := fun s h =>
  ⟨exec_parse_of_fits h, tail_off_toNat (Layout.l4End_le h) s.flen.isLt,
    tail_end (Layout.l4End_le h) s.flen.isLt⟩

/-- Settles O13: the commit's state, whose segment is the tail of the frame behind the Layer3 header. -/
theorem parsecDeliversTheLayout : Obligations.ParsecDeliversTheLayout := fun s h =>
  ⟨exec_parsec_of_fits h, tail_off_toNat (Layout.l3End_le h) s.flen.isLt,
    tail_end (Layout.l3End_le h) s.flen.isLt⟩

/-! ### A frame that does not fit (rules R154, R155) -/

/-- The state a failed decode leaves, in the statements' terms. -/
theorem raiseAt_eq_parseFailed (d : DecodeFailure) (s : State) :
    s.beginCommand.dropView.raiseAt d = Layout.parseFailed d.err.code d.err.stage d.cur s := rfl

/-- No error has the code 0. -/
theorem Error.code_ne_ok (e : Error) : e.code ≠ .ok := by
  cases e <;> nofun

/-- PARSE on a frame that does not fit: the failure, and a cursor inside the frame. -/
theorem exec_parse_of_not_fits {s : State} (h : ¬ Layout.parseFits s) :
    ∃ d, ParseFailure d ∧ d.cur ≤ s.flen.toNat ∧
      exec .parse s = .next (Layout.parseFailed d.err.code d.err.stage d.cur s) := by
  obtain ⟨d, hd, hf, hc⟩ := decode_cases_of_not_parseFits h
  exact ⟨d, hf, hc, execParse_of_error hd⟩

/-- PARSEC on a frame that does not fit. -/
theorem exec_parsec_of_not_fits {s : State} (h : ¬ Layout.parsecFits s) :
    ∃ d, ParsecFailure d ∧ d.cur ≤ s.flen.toNat ∧
      exec .parsec s = .next (Layout.parseFailed d.err.code d.err.stage d.cur s) := by
  obtain ⟨d, -, hd, hf, hc⟩ := decode_cases_of_not_parsecFits h
  exact ⟨d, hf, hc, execParsec_of_error hd⟩

/-- Settles O14: a frame that fits gives the state of the layout tables, with ERR = 0; any other shows a failure. -/
theorem parseSucceedsExactlyWhenItFits : Obligations.ParseSucceedsExactlyWhenItFits := by
  intro s
  constructor
  · by_cases h : Layout.parsecFits s
    · exact ⟨_, exec_parsec_of_fits h, iff_of_true rfl h⟩
    · obtain ⟨d, -, -, he⟩ := exec_parsec_of_not_fits h
      exact ⟨_, he, iff_of_false d.err.code_ne_ok h⟩
  · by_cases h : Layout.parseFits s
    · exact ⟨_, exec_parse_of_fits h, iff_of_true rfl h⟩
    · obtain ⟨d, -, -, he⟩ := exec_parse_of_not_fits h
      exact ⟨_, he, iff_of_false d.err.code_ne_ok h⟩

/-! ### Which field fails (rules R114 to R117) -/

/-- An error both decodes give is what both commands show. -/
theorem exec_parse_parsec_of_error {s : State} {d : DecodeFailure}
    (h : decodeFrame s.frame = .error d ∧ decodeChecksumFrame s.frame = .error d) :
    exec .parse s = .next (Layout.parseFailed d.err.code d.err.stage d.cur s) ∧
      exec .parsec s = .next (Layout.parseFailed d.err.code d.err.stage d.cur s) :=
  ⟨execParse_of_error h.1, execParsec_of_error h.2⟩

/-- Settles O15: both decodes begin with the Ethernet header and stop where its decoder stops. -/
theorem ethernetTruncation : Obligations.EthernetTruncation := fun s _ _ hm h1 h2 =>
  exec_parse_parsec_of_error (decode_eth_error (decodeEth_error (f := s.frame) hm h1 h2))

/-- Settles O16: both decodes continue with the IPv4 header and stop where its decoder stops. -/
theorem ipv4HeaderErrors : Obligations.Ipv4HeaderErrors := by
  intro s h14 he
  have stops {d : DecodeFailure} (hd : decodeIpv4 s.frame 14 = .error d) :=
    exec_parse_parsec_of_error (decode_ipv4_error h14 he hd)
  exact ⟨fun _ _ hm h1 h2 => stops (decodeIpv4_error (f := s.frame) hm h1 h2),
    fun h34 h20 => stops (decodeIpv4_malformed (f := s.frame) h34 h20),
    fun h34 h20 hend => stops (decodeIpv4_options (f := s.frame) h34 h20 hend)⟩

/-- Settles O17: behind an IPv4 header that fits, PARSE stops where the TCP decoder stops. -/
theorem tcpHeaderErrors : Obligations.TcpHeaderErrors := by
  rintro s t hfits h6 rfl
  have stops {d : DecodeFailure} (hd : decodeTcp s.frame (14 + Layout.ipHlen s.fb) = .error d) :=
    execParse_of_error (decode_tcp_error hfits h6 hd)
  exact ⟨fun _ _ hm h1 h2 => stops (decodeTcp_error (f := s.frame) hm h1 h2),
    fun h hlen => stops (decodeTcp_malformed (f := s.frame) h hlen),
    fun h h20 hend => stops (decodeTcp_options (f := s.frame) h h20 hend)⟩

/-- Settles O18: behind an IPv4 header that fits, PARSE stops where the UDP decoder stops. -/
theorem udpHeaderErrors : Obligations.UdpHeaderErrors := by
  rintro s t hfits h17 rfl o n hm h1 h2
  exact execParse_of_error (decode_udp_error hfits h17 (decodeUdp_error (f := s.frame) hm h1 h2))

end Sys2Proof.Machine

/-! ## PATCH (spec/44_patch.md rules R200 to R205)

PATCH is its conditions in their order, then what flag C's plan answers: an error, or the commit. The commit is brought
to one update of the state, `patched`, of which the buffer is the only part that depends on the flags' writes. -/

namespace Sys2Proof.Machine

/-! ### The conditions in their order (rule R200) -/

section PatchConditions

variable {s : State} {c l : Bool}

theorem exec_patch_of_view_ne (hv : s.status.view ≠ .checksum) :
    exec (.patch c l) s = .next (s.withScalars .noView .none false false false 0#16) := by
  simp [exec, execPatch, hv, State.raise_beginCommand, Error.code, Error.stage]

theorem exec_patch_unflagged (hv : s.status.view = .checksum) :
    exec (.patch false false) s = .next (s.withScalars .ok .none false false false 0#16) := by
  simp [exec, execPatch, hv, State.beginCommand_eq_withScalars]

theorem exec_patch_of_l3tag_ne (hv : s.status.view = .checksum) (hflag : c = true ∨ l = true)
    (h3 : s.status.l3tag ≠ .ipv4) :
    exec (.patch c l) s = .next (s.withScalars .unsupportedProtocol .none false false false 0#16) := by
  have hn : ¬ (c = false ∧ l = false) := by rintro ⟨rfl, rfl⟩; simp at hflag
  simp [exec, execPatch, hv, hn, h3, State.raise_beginCommand, Error.code, Error.stage]

/-- With a flag and an IPv4 view, an error of the plan is PATCH's. -/
theorem exec_patch_of_plan_error {e : Error} (hv : s.status.view = .checksum) (hflag : c = true ∨ l = true)
    (h3 : s.status.l3tag = .ipv4) (hp : s.patchPlan c = .error e) :
    exec (.patch c l) s = .next (s.withScalars e.code e.stage false false false 0#16) := by
  have hn : ¬ (c = false ∧ l = false) := by rintro ⟨rfl, rfl⟩; simp at hflag
  have hp' : s.beginCommand.patchPlan c = .error e := hp
  simp [exec, execPatch, hv, hn, h3, hp', State.raise_beginCommand]

/-- With a flag and an IPv4 view, a plan is committed. -/
theorem exec_patch_of_plan_ok {plan : Option (Nat × Half)} (hv : s.status.view = .checksum)
    (hflag : c = true ∨ l = true) (h3 : s.status.l3tag = .ipv4) (hp : s.patchPlan c = .ok plan) :
    exec (.patch c l) s = .next (s.beginCommand.commitPatch plan l) := by
  have hn : ¬ (c = false ∧ l = false) := by rintro ⟨rfl, rfl⟩; simp at hflag
  have hp' : s.beginCommand.patchPlan c = .ok plan := hp
  simp [exec, execPatch, hv, hn, h3, hp']

end PatchConditions

/-! ### Flag C's plan (rules R173, R174) -/

theorem patchPlan_unsupported {s : State} (h : Unsupported s.ip4.proto) :
    s.patchPlan true = .error .unsupportedProtocol := by
  simp [State.patchPlan, csumOff_of_unsupported h]

theorem patchPlan_short {s : State} {off : Nat} (h : FieldOffset s.ip4.proto off)
    (hl : s.payload.len.toNat < off + 2) : s.patchPlan true = .error (.truncated .seg) := by
  simp [State.patchPlan, csumOff_of_field h, checksum_short (m := s.fb) (x := s.viewArgs) h hl]

/-- The checksum of the held view's segment whose field stands at `off`. -/
def State.segmentChecksum (s : State) (off : Nat) : Half := complementFold (checksumAcc s.fb s.viewArgs off)

theorem patchPlan_ok {s : State} {off : Nat} (h : FieldOffset s.ip4.proto off)
    (hl : off + 2 ≤ s.payload.len.toNat) : s.patchPlan true = .ok (some (off, s.segmentChecksum off)) := by
  simp [State.patchPlan, csumOff_of_field h, checksum_ok (m := s.fb) (x := s.viewArgs) h hl,
    State.segmentChecksum]

/-! ### The commit (rules R200 to R202) -/

/-- The state a PATCH leaves that wrote: ERR = 0, CSUM as delivered, no view, and the buffer `m`. -/
def State.patched (s : State) (csumV : Bool) (sum : Half) (m : Memory) : State :=
  { (s.withScalars .ok .none csumV false false sum).withoutView with fb := m }

/-- The buffer after a PATCH with flag C that wrote: the checksum, then with flag L the total length. -/
def State.checksumPatchedBuffer (s : State) (off : Nat) (sum : Half) (l : Bool) : Memory :=
  if l then (s.fb.write16 (s.csumFieldAddr off) sum).write16 tlenOff s.patchedTotalLength
  else s.fb.write16 (s.csumFieldAddr off) sum

theorem commitPatch_length (s : State) :
    s.beginCommand.commitPatch none true = s.patched false 0#16 (s.fb.write16 tlenOff s.patchedTotalLength) :=
  rfl

theorem commitPatch_checksum (s : State) (off : Nat) (sum : Half) (l : Bool) :
    s.beginCommand.commitPatch (some (off, sum)) l = s.patched true sum (s.checksumPatchedBuffer off sum l) := by
  cases l <;> rfl

/-- A PATCH with flag L alone does not examine the protocol (rule R202). -/
theorem exec_patch_length {s : State} (hv : s.status.view = .checksum) (h3 : s.status.l3tag = .ipv4) :
    exec (.patch false true) s
      = .next (s.patched false 0#16 (s.fb.write16 tlenOff s.patchedTotalLength)) := by
  rw [exec_patch_of_plan_ok (plan := none) hv (.inr rfl) h3 rfl, commitPatch_length]

theorem exec_patch_checksum {s : State} {off : Nat} (l : Bool) (hv : s.status.view = .checksum)
    (h3 : s.status.l3tag = .ipv4) (hf : FieldOffset s.ip4.proto off) (hl : off + 2 ≤ s.payload.len.toNat) :
    exec (.patch true l) s = .next (s.patched true (s.segmentChecksum off)
      (s.checksumPatchedBuffer off (s.segmentChecksum off) l)) := by
  rw [exec_patch_of_plan_ok hv (.inl rfl) h3 (patchPlan_ok hf hl), commitPatch_checksum]

theorem patchedTotalLength_toNat (s : State) :
    s.patchedTotalLength.toNat = (s.payload.len.toNat + s.ip4.hlen.toNat) % 65536 := by
  simp [State.patchedTotalLength]

theorem segmentChecksum_toNat {s : State} {off : Nat} (hf : FieldOffset s.ip4.proto off)
    (hl : off + 2 ≤ s.payload.len.toNat) :
    (s.segmentChecksum off).toNat = 65535 - onesSum (fieldlessSum s.fb s.viewArgs off) := by
  have hlt : checksumAcc s.fb s.viewArgs off < 2 ^ 32 :=
    (checksumAcc_le s.fb (x := s.viewArgs) hf hl).trans_lt (by decide)
  rw [State.segmentChecksum, complementFold_toNat (checksumAcc_pos s.fb hf) hlt, checksumAcc_eq_fieldlessSum]

/-- Settles O29: the conditions in their order, and the two errors of flag C's plan. -/
theorem patchWithoutAWrite : Obligations.PatchWithoutAWrite := by
  intro s c l
  refine ⟨exec_patch_of_view_ne, ?unflagged, exec_patch_of_l3tag_ne, ?unsupported, ?short⟩
  case unflagged =>
    rintro hv rfl rfl
    exact exec_patch_unflagged hv
  case unsupported =>
    rintro hv h3 rfl hu
    exact exec_patch_of_plan_error hv (.inl rfl) h3 (patchPlan_unsupported hu)
  case short =>
    rintro off hv h3 rfl hf hl
    exact exec_patch_of_plan_error hv (.inl rfl) h3 (patchPlan_short hf hl)

/-- Settles O30: the commit of the segment's checksum and, with flag L, of the total length. -/
theorem patchStoresTheChecksum : Obligations.PatchStoresTheChecksum := fun s l off hv h3 hf hl =>
  ⟨s.segmentChecksum off, s.patchedTotalLength, segmentChecksum_toNat hf hl, patchedTotalLength_toNat s,
    exec_patch_checksum l hv h3 hf hl⟩

/-- Settles O31: the commit of the total length alone. -/
theorem patchStoresTheTotalLength : Obligations.PatchStoresTheTotalLength := fun s hv h3 =>
  ⟨s.patchedTotalLength, patchedTotalLength_toNat s, exec_patch_length hv h3⟩

end Sys2Proof.Machine

/-! ## What a command and a step can do

Every way a command can end is one case of `CommandEffect`, with the whole next state; every way a step can end is one
case of `StepEffect`. The rules about every command and every step are then read off the cases. -/

namespace Sys2Proof.Machine

/-- The ways a command can end in `s`: `CommandEffect s i t` lists the next states `t` of the command `i`. -/
inductive CommandEffect (s : State) : Instr → State → Prop where
  | nop : CommandEffect s .nop s
  | clr : CommandEffect s .clr { (s.withScalars .ok .none false false false 0#16).withoutView with cur := 0#16 }
  | parsed (hfits : Layout.parseFits s) : CommandEffect s .parse (Layout.parsed s)
  | parsedChecksum (hfits : Layout.parsecFits s) : CommandEffect s .parsec (Layout.parsedChecksum s)
  | parseFailed {i : Instr} (d : DecodeFailure)
      (hi : i = .parse ∧ ParseFailure d ∨ i = .parsec ∧ ParsecFailure d) (hcur : d.cur ≤ s.flen.toNat) :
      CommandEffect s i (Layout.parseFailed d.err.code d.err.stage d.cur s)
  | raised {i : Instr} (e : Error) (hi : i ∉ [.clr, .parse, .parsec])
      (he : (e.code, e.stage) ∈ endings i) :
      CommandEffect s i (s.withScalars e.code e.stage false false false 0#16)
  | checksum {i : Instr} (sum : Half) (hi : i = .cksum ∨ i = .csumr) :
      CommandEffect s i (s.withScalars .ok .none true false false sum)
  | verdict {i : Instr} (v : Bool) (hi : i = .verify ∨ i = .verifyr) :
      CommandEffect s i (s.withScalars .ok .none false true v 0#16)
  | unsupported {i : Instr} (hi : i = .verify ∨ i = .verifyr) :
      CommandEffect s i (s.withScalars .unsupportedProtocol .none false true false 0#16)
  | unflagged : CommandEffect s (.patch false false) (s.withScalars .ok .none false false false 0#16)
  | patchedLength (hv : s.status.view = .checksum) (h3 : s.status.l3tag = .ipv4) :
      CommandEffect s (.patch false true)
        (s.patched false 0#16 (s.fb.write16 tlenOff s.patchedTotalLength))
  | patchedChecksum (l : Bool) (off : Nat) (hv : s.status.view = .checksum) (h3 : s.status.l3tag = .ipv4)
      (hf : FieldOffset s.ip4.proto off) (hl : off + 2 ≤ s.payload.len.toNat) :
      CommandEffect s (.patch true l) (s.patched true (s.segmentChecksum off)
        (s.checksumPatchedBuffer off (s.segmentChecksum off) l))

/-! ### Every command's end is one of them -/

/-- The engine raises nothing but its two errors (rules R173, R174). -/
theorem checksum_error_cases {m : Memory} {x : EngineArgs} {e : Error} (h : checksum m x = .error e) :
    e = .unsupportedProtocol ∨ e = .truncated .seg := by
  unfold checksum at h
  split at h
  · cases h; exact .inl rfl
  · split at h
    · cases h; exact .inr rfl
    · cases h

theorem exec_parse_effect (s : State) : ∃ t, exec .parse s = .next t ∧ CommandEffect s .parse t := by
  by_cases h : Layout.parseFits s
  · exact ⟨_, exec_parse_of_fits h, .parsed h⟩
  · obtain ⟨d, hf, hc, he⟩ := exec_parse_of_not_fits h
    exact ⟨_, he, .parseFailed d (.inl ⟨rfl, hf⟩) hc⟩

theorem exec_parsec_effect (s : State) : ∃ t, exec .parsec s = .next t ∧ CommandEffect s .parsec t := by
  by_cases h : Layout.parsecFits s
  · exact ⟨_, exec_parsec_of_fits h, .parsedChecksum h⟩
  · obtain ⟨d, hf, hc, he⟩ := exec_parsec_of_not_fits h
    exact ⟨_, he, .parseFailed d (.inr ⟨rfl, hf⟩) hc⟩

/-- What CKSUM and CSUMR make of the engine's answer is an ending of theirs. -/
theorem withAnswer_effect {s : State} {i : Instr} (hi : i = .cksum ∨ i = .csumr) (m : Memory) (x : EngineArgs) :
    CommandEffect s i (s.withAnswer (checksum m x)) := by
  cases h : checksum m x with
  | ok c => exact .checksum c hi
  | error e =>
    refine .raised e ?_ ?_
    · rcases hi with rfl | rfl <;> decide
    · rcases hi with rfl | rfl <;> rcases checksum_error_cases h with rfl | rfl <;> decide

theorem exec_cksum_effect {s t : State} (h : exec .cksum s = .next t) : CommandEffect s .cksum t := by
  rw [exec_cksum] at h
  split_ifs at h <;> cases h
  · exact .raised .noView (by decide) (by decide)
  · exact .raised .unsupportedProtocol (by decide) (by decide)
  · exact withAnswer_effect (.inl rfl) _ _

theorem exec_verify_effect {s t : State} (h : exec .verify s = .next t) : CommandEffect s .verify t := by
  rw [exec_verify] at h
  split_ifs at h <;> cases h
  · exact .raised .noView (by decide) (by decide)
  · exact .unsupported (.inl rfl)
  · exact .verdict _ (.inl rfl)

theorem exec_csumr_effect {s t : State} (h : exec .csumr s = .next t) : CommandEffect s .csumr t := by
  rw [exec_csumr] at h
  split_ifs at h <;> cases h
  · exact .raised .unsupportedProtocol (by decide) (by decide)
  · exact .raised (.truncated .seg) (by decide) (by decide)
  · exact withAnswer_effect (.inr rfl) _ _

theorem exec_verifyr_effect {s t : State} (h : exec .verifyr s = .next t) : CommandEffect s .verifyr t := by
  rw [exec_verifyr] at h
  split_ifs at h <;> cases h
  · exact .unsupported (.inr rfl)
  · exact .raised (.truncated .seg) (by decide) (by decide)
  · exact .verdict _ (.inr rfl)

theorem exec_patch_effect (s : State) (c l : Bool) :
    ∃ t, exec (.patch c l) s = .next t ∧ CommandEffect s (.patch c l) t := by
  by_cases hv : s.status.view = .checksum
  case neg =>
    exact ⟨_, exec_patch_of_view_ne hv, .raised .noView (by simp) (by cases c <;> cases l <;> decide)⟩
  by_cases hflag : c = true ∨ l = true
  case neg =>
    obtain ⟨rfl, rfl⟩ : c = false ∧ l = false := by simpa using hflag
    exact ⟨_, exec_patch_unflagged hv, .unflagged⟩
  by_cases h3 : s.status.l3tag = .ipv4
  case neg =>
    refine ⟨_, exec_patch_of_l3tag_ne hv hflag h3, .raised .unsupportedProtocol (by simp) ?_⟩
    rcases hflag with rfl | rfl
    · simp [endings, Error.code, Error.stage]
    · cases c <;> decide
  cases c with
  | false =>
    obtain rfl : l = true := by simpa using hflag
    exact ⟨_, exec_patch_length hv h3, .patchedLength hv h3⟩
  | true =>
    by_cases hu : Unsupported s.ip4.proto
    · exact ⟨_, exec_patch_of_plan_error hv hflag h3 (patchPlan_unsupported hu),
        .raised .unsupportedProtocol (by simp) (by simp [endings, Error.code, Error.stage])⟩
    · obtain ⟨off, hf⟩ := field_of_supported (supported_eq_true.2 hu)
      rcases Nat.lt_or_ge s.payload.len.toNat (off + 2) with hl | hl
      · exact ⟨_, exec_patch_of_plan_error hv hflag h3 (patchPlan_short hf hl),
          .raised (.truncated .seg) (by simp) (by simp [endings, Error.code, Error.stage])⟩
      · exact ⟨_, exec_patch_checksum l hv h3 hf hl, .patchedChecksum l off hv h3 hf hl⟩

/-- All that a command can do. -/
theorem exec_effect {i : Instr} {s t : State} (h : exec i s = .next t) : CommandEffect s i t := by
  have answered {i : Instr} (h : exec i s = .next t) (he : ∃ u, exec i s = .next u ∧ CommandEffect s i u) :
      CommandEffect s i t := by
    obtain ⟨u, hu, he⟩ := he
    obtain rfl : u = t := Host.Outcome.next.inj (hu.symm.trans h)
    exact he
  cases i with
  | nop => cases h; exact .nop
  | clr => cases h; exact .clr
  | parse => exact answered h (exec_parse_effect s)
  | parsec => exact answered h (exec_parsec_effect s)
  | cksum => exact exec_cksum_effect h
  | verify => exact exec_verify_effect h
  | csumr => exact exec_csumr_effect h
  | verifyr => exact exec_verifyr_effect h
  | patch c l => exact answered h (exec_patch_effect s c l)

/-! ### What a step can do -/

/-- The ways a step can end. Beside commands and reset only two transactions do more than change an operand register
and the reply: a write of FB below FB_BYTES and a write of FLEN. -/
inductive StepEffect (s t : State) : Prop where
  | idle (hp : s.pending = []) (h : t = s)
  | reset (rest : List HostInput) (hp : s.pending = .reset :: rest)
      (h : t = { s with pending := rest }.resetPulse)
  | illegal (w : Word) (rest : List HostInput) (hp : s.pending = .write 0x00#6 w :: rest)
      (h : t = { s with pending := rest, reply := .nothing }.withScalars .illegalCmd .none false false false 0#16)
  | command (w : Word) (i : Instr) (rest : List HostInput) (hp : s.pending = .write 0x00#6 w :: rest)
      (hd : decode w = .ok i) (h : exec i { s with pending := rest, reply := .nothing } = .next t)
  | fbWrite (a : Half) (b : Byte) (rest : List HostInput) (rep : HostReply)
      (hp : s.pending = .fbWrite a b :: rest) (ha : a.toNat < s.cfg.fbBytes)
      (h : t = { s.withoutView with fb := s.fb.write a.toNat b, pending := rest, reply := rep })
  | flenWrite (v : Word) (rest : List HostInput) (rep : HostReply) (hp : s.pending = .write 0x02#6 v :: rest)
      (h : t = { s.writeFlen v with pending := rest, reply := rep })
  | operands (src dst : Word) (proto : Byte) (seg : Slice) (rest : List HostInput) (rep : HostReply)
      (h : t = { s with
        opSrc := src, opDst := dst, opProto := proto, opSeg := seg, pending := rest, reply := rep })

theorem execWord_effect {s t : State} {w : Word} (h : execWord w s = .next t) :
    t = s.withScalars .illegalCmd .none false false false 0#16 ∨ ∃ i, decode w = .ok i ∧ exec i s = .next t := by
  unfold execWord at h
  split at h
  · cases h; exact .inl rfl
  · next i hd => exact .inr ⟨i, hd, h⟩

/-- All that a step can do. -/
theorem step_effect {s t : State} (h : step s = .next t) : StepEffect s t := by
  cases hp : s.pending with
  | nil =>
    simp only [step, State.transact, hp] at h
    cases h
    exact .idle hp rfl
  | cons input rest =>
    rw [step_cons hp] at h
    by_cases hr : input = .reset
    · subst hr; cases h; exact .reset rest hp rfl
    by_cases hw : ∃ w, input = .write 0x00#6 w
    · obtain ⟨w, rfl⟩ := hw
      rw [serve_command] at h
      rcases execWord_effect h with rfl | ⟨i, hd, h⟩
      · exact .illegal w rest hp rfl
      · exact .command w i rest hp hd h
    obtain ⟨rep, rfl | ⟨a, b, rfl, ha, rfl⟩ | ⟨v, rfl, rfl⟩ | ⟨src, dst, proto, seg, rfl⟩⟩ :=
      serve_cases h hr (not_exists.1 hw)
    · exact .operands s.opSrc s.opDst s.opProto s.opSeg rest rep rfl
    · exact .fbWrite a b rest rep hp ha rfl
    · exact .flenWrite v rest rep hp rfl
    · exact .operands src dst proto seg rest rep rfl

end Sys2Proof.Machine

/-! ## The rules about every command and every step (rules R26, R39, R40, R41, R216, R232)

Each is read off the cases of `CommandEffect` or `StepEffect`. -/

namespace Sys2Proof.Machine

/-- Every command but NOP can end with ERR = 0 and STAGE = 0 (rule R232). -/
theorem ok_mem_endings {i : Instr} (hi : i ≠ .nop) : (ErrCode.ok, Stage.none) ∈ endings i := by
  cases i with
  | nop => exact absurd rfl hi
  | patch c l => cases c <;> cases l <;> exact .head _
  | _ => exact .head _

/-- A stage comes with the two decode errors and with no other code (rule R217). -/
theorem endings_stage {i : Instr} {e : ErrCode} {g : Stage} (h : (e, g) ∈ endings i) :
    g ≠ .none ↔ e = .truncated ∨ e = .malformedLength := by
  have each : ∀ p ∈ endings i, p.2 ≠ .none ↔ p.1 = .truncated ∨ p.1 = .malformedLength := by
    cases i with
    | patch c l => cases c <;> cases l <;> decide
    | _ => decide
  exact each (e, g) h

namespace CommandEffect

variable {i : Instr} {s t : State}

/-- What no command changes (rule R216). -/
theorem keeps (h : CommandEffect s i t) :
    t.flen = s.flen ∧ t.opSrc = s.opSrc ∧ t.opDst = s.opDst ∧ t.opProto = s.opProto ∧ t.opSeg = s.opSeg ∧
      t.cfg = s.cfg ∧ t.pending = s.pending ∧ t.reply = s.reply := by
  cases h <;> exact ⟨rfl, rfl, rfl, rfl, rfl, rfl, rfl, rfl⟩

/-- The buffer is PATCH's alone to change (rule R41). -/
theorem fb_eq (h : CommandEffect s i t) (hi : ∀ c l, i ≠ .patch c l) : t.fb = s.fb := by
  cases h with
  | patchedLength => exact absurd rfl (hi false true)
  | patchedChecksum l => exact absurd rfl (hi true l)
  | _ => rfl

/-- Every ending is in the table of rule R232. -/
theorem ending (h : CommandEffect s i t) (hi : i ≠ .nop) : (t.status.err, t.status.stage) ∈ endings i := by
  cases h with
  | nop => exact absurd rfl hi
  | parseFailed d hd =>
    show (d.err.code, d.err.stage) ∈ endings i
    rcases hd with ⟨rfl, (h | h | h) | h | h | h⟩ | ⟨rfl, h | h | h⟩ <;> rw [h] <;> decide
  | raised e _ he => exact he
  | unsupported hi => rcases hi with rfl | rfl <;> simp [endings]
  | _ => exact ok_mem_endings hi

/-- A parse leaves the cursor at FLEN, or where its decode stopped (rule R26). -/
theorem cursor_of_parse (h : CommandEffect s i t) (hi : i = .parse ∨ i = .parsec) :
    (t.status.err = .ok → t.cur = s.flen) ∧ t.cur.toNat ≤ s.flen.toNat := by
  cases h with
  | parsed | parsedChecksum => exact ⟨fun _ => rfl, Nat.le_refl _⟩
  | parseFailed d _ hcur =>
    exact ⟨fun h => absurd h d.err.code_ne_ok, (Nat.mod_le _ _).trans hcur⟩
  | raised e hn => rcases hi with rfl | rfl <;> simp at hn
  | checksum _ hj | verdict _ hj | unsupported hj => rcases hj with rfl | rfl <;> simp at hi
  | _ => simp at hi

/-- Any other command but CLR leaves the cursor where it stood (rule R26). -/
theorem cursor_of_not_parse (h : CommandEffect s i t) (hp : i ≠ .parse) (hc : i ≠ .parsec) (hclr : i ≠ .clr) :
    t.cur = s.cur := by
  cases h with
  | clr => exact absurd rfl hclr
  | parsed => exact absurd rfl hp
  | parsedChecksum => exact absurd rfl hc
  | parseFailed d hd => exact (hd.elim (hp ·.1) (hc ·.1)).elim
  | _ => rfl

/-- A command that moves the cursor leaves it in the frame. -/
theorem cursor_cases (h : CommandEffect s i t) : t.cur = s.cur ∨ t.cur.toNat ≤ s.flen.toNat := by
  cases h with
  | clr => exact .inr (Nat.zero_le _)
  | parsed | parsedChecksum => exact .inr (Nat.le_refl _)
  | parseFailed d _ hcur => exact .inr ((Nat.mod_le _ _).trans hcur)
  | _ => exact .inl rfl

/-- CSUM and VFY are 0 without their flags; CSUM_V comes from CKSUM, CSUMR and PATCH with flag C alone, VFY_V from the
two verifies alone (rule R39). -/
theorem scalars (h : CommandEffect s i t) (hi : i ≠ .nop) :
    (t.status.csumV = false → t.csum = 0#16) ∧ (t.status.vfyV = false → t.status.vfy = false) ∧
      (t.status.csumV = true → i = .cksum ∨ i = .csumr ∨ ∃ l, i = .patch true l) ∧
      (t.status.vfyV = true → i = .verify ∨ i = .verifyr) := by
  cases h with
  | nop => exact absurd rfl hi
  | checksum sum hj => exact ⟨nofun, fun _ => rfl, fun _ => hj.elim .inl (.inr ∘ .inl), nofun⟩
  | verdict v hj => exact ⟨fun _ => rfl, nofun, nofun, fun _ => hj⟩
  | unsupported hj => exact ⟨fun _ => rfl, nofun, nofun, fun _ => hj⟩
  | patchedChecksum l => exact ⟨nofun, fun _ => rfl, fun _ => .inr (.inr ⟨l, rfl⟩), nofun⟩
  | _ => exact ⟨fun _ => rfl, fun _ => rfl, nofun, nofun⟩

/-- A checksum comes with ERR = 0 and no verdict, a verdict with ERR = 0 or, then false, UNSUPPORTED_PROTOCOL. -/
theorem flags (h : CommandEffect s i t) (hi : i ≠ .nop) :
    (t.status.csumV = true → t.status.err = .ok ∧ t.status.vfyV = false) ∧
      (t.status.vfyV = true → t.status.err = .ok ∨ t.status.err = .unsupportedProtocol) ∧
      (t.status.vfy = true → t.status.err = .ok) := by
  cases h with
  | nop => exact absurd rfl hi
  | checksum | patchedChecksum => exact ⟨fun _ => ⟨rfl, rfl⟩, nofun, nofun⟩
  | verdict => exact ⟨nofun, fun _ => .inl rfl, fun _ => rfl⟩
  | unsupported => exact ⟨nofun, fun _ => .inr rfl, nofun⟩
  | _ => exact ⟨nofun, nofun, nofun⟩

/-- What a command does to the view: it keeps it and the buffer; it is a parse, and keeps the buffer; or it is CLR or a
PATCH with a flag, and drops the view (rule R40). -/
theorem heldView_cases (h : CommandEffect s i t) :
    t.heldView = s.heldView ∧ t.fb = s.fb ∨ (i = .parse ∨ i = .parsec) ∧ t.fb = s.fb ∨
      (i = .clr ∨ ∃ c l, i = .patch c l ∧ (c = true ∨ l = true)) ∧ t.heldView = s.dropView.heldView := by
  cases h with
  | clr => exact .inr (.inr ⟨.inl rfl, rfl⟩)
  | parsed => exact .inr (.inl ⟨.inl rfl, rfl⟩)
  | parsedChecksum => exact .inr (.inl ⟨.inr rfl, rfl⟩)
  | parseFailed d hd => exact .inr (.inl ⟨hd.imp And.left And.left, rfl⟩)
  | patchedLength => exact .inr (.inr ⟨.inr ⟨_, _, rfl, .inr rfl⟩, rfl⟩)
  | patchedChecksum => exact .inr (.inr ⟨.inr ⟨_, _, rfl, .inl rfl⟩, rfl⟩)
  | _ => exact .inl ⟨rfl, rfl⟩

end CommandEffect

/-- Settles O44: no case changes FLEN or an operand register, and only PATCH's two have another buffer. -/
theorem commandsKeepFlenOperandsAndBuffer : Obligations.CommandsKeepFlenOperandsAndBuffer := by
  intro i s t h
  obtain ⟨hflen, hsrc, hdst, hproto, hseg, hcfg, hpending, hreply⟩ := (exec_effect h).keeps
  exact ⟨hflen, hsrc, hdst, hproto, hseg, hcfg, hpending, hreply, (exec_effect h).fb_eq⟩

/-- Settles O43: each case of a scalar command is a scalar update. -/
theorem checksumCommandsChangeOnlyScalars : Obligations.ChecksumCommandsChangeOnlyScalars := by
  rintro i s t (rfl | rfl | rfl | rfl) h <;> cases exec_effect h with
  | parseFailed d hd => rcases hd with ⟨h, -⟩ | ⟨h, -⟩ <;> cases h
  | _ => rfl

/-- Settles O45: the cursor in the cases of a command, and a transaction that is neither a command nor reset writes
no cursor. -/
theorem cursorAfterEveryStep : Obligations.CursorAfterEveryStep := by
  refine ⟨fun i s t h => ⟨(exec_effect h).cursor_of_parse, ?clr, (exec_effect h).cursor_of_not_parse⟩, ?host⟩
  case clr => rintro rfl; cases h; rfl
  case host =>
    intro s t input rest hp hr hw h
    rw [step_cons hp] at h
    obtain ⟨rep, rfl | ⟨a, b, -, -, rfl⟩ | ⟨v, -, rfl⟩ | ⟨a, b, c, d, rfl⟩⟩ := serve_cases h hr hw <;> rfl

/-- Settles O46: the scalars in the cases of a command, and a transaction that is neither a command nor reset writes
none of them. -/
theorem scalarResultsBelongToTheLatestCommand : Obligations.ScalarResultsBelongToTheLatestCommand := by
  refine ⟨fun i s t h => (exec_effect h).scalars, fun s t input rest hp hr hw h => ?_⟩
  rw [step_cons hp] at h
  obtain ⟨rep, rfl | ⟨a, b, -, -, rfl⟩ | ⟨v, -, rfl⟩ | ⟨a, b, c, d, rfl⟩⟩ := serve_cases h hr hw <;>
    exact ⟨rfl, rfl, rfl, rfl, rfl, rfl⟩

/-! ### The events that end a view (rule R40) -/

/-- No view, field by field, as `DropView()` leaves it. -/
theorem fields_of_dropped {s t : State} (h : t.heldView = s.dropView.heldView) :
    t.status.view = .none ∧ t.status.l3tag = .unknown ∧ t.status.l4tag = .unknown ∧ t.eth = EthRegs.zero ∧
      t.ip4 = Ip4Regs.zero ∧ t.tcp = TcpRegs.zero ∧ t.udp = UdpRegs.zero ∧ t.payload = Slice.zero := by
  simpa [State.heldView] using h

/-- A state with a field of the view changed does not hold the same view. -/
theorem heldView_ne {s t : State}
    (h : t.status.view ≠ s.status.view ∨ t.status.l3tag ≠ s.status.l3tag ∨ t.status.l4tag ≠ s.status.l4tag ∨
      t.eth ≠ s.eth ∨ t.ip4 ≠ s.ip4 ∨ t.tcp ≠ s.tcp ∨ t.udp ≠ s.udp ∨ t.payload ≠ s.payload) :
    t.heldView ≠ s.heldView := by
  intro heq
  simp only [State.heldView, HeldView.mk.injEq] at heq
  simp [heq] at h

/-- Settles O47: a step that changes the view is a parse, or one of the listed events and drops the view. -/
theorem onlyListedEventsEndTheView : Obligations.OnlyListedEventsEndTheView := by
  intro s t h hne
  replace hne := heldView_ne hne
  cases step_effect h with
  | idle _ ht => subst ht; exact absurd rfl hne
  | illegal w rest _ ht => subst ht; exact absurd rfl hne
  | operands _ _ _ _ _ _ ht => subst ht; exact absurd rfl hne
  | reset rest hp ht =>
    subst ht
    exact ⟨_, rest, hp, .inr ⟨.inr (.inl rfl), fields_of_dropped (s := s) rfl⟩⟩
  | fbWrite a b rest rep hp ha ht =>
    subst ht
    exact ⟨_, rest, hp, .inr ⟨.inr (.inr (.inr ⟨a, b, rfl, ha⟩)), fields_of_dropped (s := s) rfl⟩⟩
  | flenWrite v rest rep hp ht =>
    subst ht
    exact ⟨_, rest, hp, .inr ⟨.inr (.inr (.inl ⟨v, rfl⟩)), fields_of_dropped (s := s) rfl⟩⟩
  | command w i rest hp hd ht =>
    rcases (exec_effect ht).heldView_cases with ⟨hv, -⟩ | ⟨hi, -⟩ | ⟨hi, hv⟩
    · exact absurd hv hne
    · exact ⟨_, rest, hp, .inl ⟨w, i, rfl, hd, hi⟩⟩
    · exact ⟨_, rest, hp, .inr ⟨.inl ⟨w, i, rfl, hd, hi⟩, fields_of_dropped hv⟩⟩

/-! ### PATCH: raised, without a flag, or written -/

/-- A PATCH raises and changes the scalars alone, or has neither flag, or writes and leaves no view. -/
theorem CommandEffect.patch_cases {s t : State} {c l : Bool} (h : CommandEffect s (.patch c l) t) :
    (∃ e : Error, t = s.withScalars e.code e.stage false false false 0#16) ∨
      (c = false ∧ l = false ∧ t = s.withScalars .ok .none false false false 0#16) ∨
      ((c = true ∨ l = true) ∧ ∃ csumV sum m, t = s.patched csumV sum m) := by
  cases h with
  | raised e => exact .inl ⟨e, rfl⟩
  | unflagged => exact .inr (.inl ⟨rfl, rfl, rfl⟩)
  | patchedLength => exact .inr (.inr ⟨.inr rfl, _, _, _, rfl⟩)
  | patchedChecksum => exact .inr (.inr ⟨.inl rfl, _, _, _, rfl⟩)
  | parseFailed _ hi | checksum _ hi | verdict _ hi | unsupported hi => simp at hi

/-- Settles O33: a PATCH with ERR ≠ 0 is one that raised. -/
theorem patchIsAllOrNothing : Obligations.PatchIsAllOrNothing := by
  intro s t c l h herr
  rcases (exec_effect h).patch_cases with ⟨e, rfl⟩ | ⟨-, -, rfl⟩ | ⟨-, csumV, sum, m, rfl⟩
  · rfl
  · exact absurd rfl herr
  · exact absurd rfl herr

end Sys2Proof.Machine

/-! ## The invariant of the block (spec/10_state.md rules R25, R37 to R41, spec/20_memory.md rule R78)

Reset meets each of its four clauses, and every step keeps them: the buffer, because PATCH writes inside the frame;
the scalars and the absent groups, case by case; the view, because a step that changes the frame drops it. -/

namespace Sys2Proof.Machine

/-! ### What a held view says of the frame (rules R78, R177) -/

/-- The segment of an IPv4 ChecksumFrame lies in the frame, behind at least the 34 bytes of its headers. -/
abbrev State.SegmentInFrame (s : State) : Prop :=
  s.status.view = .checksum → s.status.l3tag = .ipv4 →
    34 ≤ s.payload.off.toNat ∧ s.payload.off.toNat + s.payload.len.toNat ≤ s.flen.toNat

/-- Group IP4 and its tag, of either view, are what the layout tables read; the payload is a tail of the frame. -/
theorem heldView_current {s : State} (hs : s.ViewIsCurrent) (hv : s.status.view ≠ .none) :
    Layout.parsecFits s ∧ s.status.l3tag = (if Layout.etype s.fb = 0x0800#16 then .ipv4 else .unknown) ∧
      s.ip4 = (if Layout.etype s.fb = 0x0800#16 then Layout.ip4 s.fb else Ip4Regs.zero) ∧
      ∃ o ≤ s.flen.toNat, s.payload = Layout.tail o s.flen.toNat ∧
        (s.status.view = .checksum → o = Layout.l3End s.fb) := by
  obtain ⟨hdecoded, hchecksum⟩ := hs
  cases hview : s.status.view with
  | none => exact absurd hview hv
  | decoded =>
    obtain ⟨hfits, hl3, -, -, hip4, -, -, hpay⟩ := hdecoded hview
    exact ⟨hfits.1, hl3, hip4, _, Layout.l4End_le hfits, hpay, nofun⟩
  | checksum =>
    obtain ⟨hfits, hl3, -, -, hip4, hpay⟩ := hchecksum hview
    exact ⟨hfits, hl3, hip4, _, Layout.l3End_le hfits, hpay, fun _ => rfl⟩

/-- The tag of a held IPv4 view is read off the ethertype of the frame. -/
theorem heldView_ipv4 {s : State} (hs : s.ViewIsCurrent) (hv : s.status.view ≠ .none)
    (h3 : s.status.l3tag = .ipv4) :
    Layout.etype s.fb = 0x0800#16 ∧ s.ip4 = Layout.ip4 s.fb ∧ 34 ≤ s.flen.toNat ∧ 20 ≤ Layout.ipHlen s.fb ∧
      14 + Layout.ipHlen s.fb ≤ s.flen.toNat := by
  obtain ⟨hfits, hl3, hip4, -⟩ := heldView_current hs hv
  have he : Layout.etype s.fb = 0x0800#16 := by
    by_contra hne
    rw [h3, if_neg hne] at hl3
    cases hl3
  rw [if_pos he] at hip4
  exact ⟨he, hip4, hfits.2 he⟩

theorem ip4_hlen_toNat (m : Memory) : (Layout.ip4 m).hlen.toNat = Layout.ipHlen m :=
  Nat.mod_eq_of_lt ((Layout.ipHlen_le m).trans_lt (by decide))

theorem ip4_opt_len_toNat (m : Memory) : (Layout.ip4 m).opt.len.toNat = Layout.ipHlen m - 20 :=
  Nat.mod_eq_of_lt ((Nat.sub_le _ _).trans_lt ((Layout.ipHlen_le m).trans_lt (by decide)))

/-- Settles O57: the payload is a tail of the frame, and group IP4 is read from a header that fits. -/
theorem heldSegmentEndsTheFrame : Obligations.HeldSegmentEndsTheFrame := by
  intro s hs hv
  obtain ⟨-, -, -, o, ho, hpay, hend⟩ := heldView_current hs.view hv
  have hoff := tail_off_toNat ho s.flen.isLt
  refine ⟨hpay ▸ tail_end ho s.flen.isLt, fun h3 => ?_⟩
  obtain ⟨he, hip4, h34, h20, -⟩ := heldView_ipv4 hs.view hv h3
  rw [hip4, ip4_hlen_toNat, ip4_opt_len_toNat, hpay, hoff]
  exact ⟨h20, Layout.ipHlen_le _, h34, rfl, fun hc => (hend hc).trans (Layout.l3End_of_ipv4 he)⟩

theorem State.Inv.segmentInFrame {s : State} (hs : s.Inv) : s.SegmentInFrame := by
  intro hv h3
  obtain ⟨hend, hip⟩ := heldSegmentEndsTheFrame s hs (by rw [hv]; nofun)
  obtain ⟨h20, -, -, -, hoff⟩ := hip h3
  have hoff := hoff hv
  omega

/-! ### The buffer (rules R25, R26, R41) -/

/-- PATCH writes inside the frame, so what every such write keeps, every command keeps. -/
theorem CommandEffect.fb_induction {s t : State} {i : Instr} {P : Memory → Prop} (h : CommandEffect s i t)
    (hseg : s.SegmentInFrame) (h0 : P s.fb)
    (hw : ∀ m a v, P m → a + 1 < s.flen.toNat → P (m.write16 a v)) : P t.fb := by
  cases h with
  | patchedLength hv h3 =>
    obtain ⟨hoff, hend⟩ := hseg hv h3
    exact hw _ _ _ h0 (by rw [tlenOff]; omega)
  | patchedChecksum l off hv h3 hf hl =>
    obtain ⟨hoff, hend⟩ := hseg hv h3
    have hsum := hw _ (s.csumFieldAddr off) (s.segmentChecksum off) h0 (by rw [State.csumFieldAddr]; omega)
    show P (s.checksumPatchedBuffer off _ l)
    rw [State.checksumPatchedBuffer]
    split
    · exact hw _ _ _ hsum (by rw [tlenOff]; omega)
    · exact hsum
  | _ => exact h0

theorem CommandEffect.bufferBounded {s t : State} {i : Instr} (h : CommandEffect s i t) (hs : s.Inv) :
    t.BufferBounded := by
  obtain ⟨hflen, -, -, -, -, hcfg, -, -⟩ := h.keeps
  obtain ⟨hvalid, hlen, hcur, hwf, hbelow⟩ := hs.buffer
  have hfb : t.fb.wf = true ∧ t.fb.below s.cfg.fbBytes = true :=
    h.fb_induction (P := fun m => m.wf = true ∧ m.below s.cfg.fbBytes = true) hs.segmentInFrame
      ⟨hwf, hbelow⟩
      fun _ _ _ hm ha => ⟨Memory.wf_write16 _ _ hm.1, Memory.below_write16 _ (ha.trans_le hlen) hm.2⟩
  have hcur' : t.cur.toNat ≤ s.cfg.fbBytes := by
    rcases h.cursor_cases with hsame | hle
    · rwa [hsame]
    · exact hle.trans hlen
  constructor
  case cfg => rwa [hcfg]
  case flen => rwa [hflen, hcfg]
  case cur => rwa [hcfg]
  case wf => exact hfb.1
  case below => rw [hcfg]; exact hfb.2

/-- The transactions to come and the last reply have no part in the invariant. -/
theorem State.Inv.of_pending_reply {s : State} (hs : s.Inv) (p : List HostInput) (r : HostReply) :
    State.Inv { s with pending := p, reply := r } where
  buffer := ⟨hs.buffer.cfg, hs.buffer.flen, hs.buffer.cur, hs.buffer.wf, hs.buffer.below⟩
  scalars := ⟨hs.scalars.stage, hs.scalars.csum, hs.scalars.vfy, hs.scalars.csumV, hs.scalars.vfyV,
    hs.scalars.vfyTrue⟩
  groups := hs.groups.of_heldView_eq rfl
  view := hs.view

theorem step_bufferBounded {s t : State} (hs : s.Inv) (h : step s = .next t) : t.BufferBounded := by
  obtain ⟨hvalid, hlen, hcur, hwf, hbelow⟩ := hs.buffer
  cases step_effect h with
  | idle _ ht => exact ht ▸ hs.buffer
  | command w i rest _ _ ht => exact (exec_effect ht).bufferBounded (hs.of_pending_reply rest .nothing)
  | reset rest _ ht =>
    subst ht
    exact ⟨hvalid, Nat.zero_le _, Nat.zero_le _, rfl, rfl⟩
  | illegal w rest _ ht =>
    subst ht
    exact ⟨hvalid, hlen, hcur, hwf, hbelow⟩
  | fbWrite a b rest rep _ ha ht =>
    subst ht
    exact ⟨hvalid, hlen, hcur, Memory.wf_write _ _ hwf, Memory.below_write _ ha hbelow⟩
  | flenWrite v rest rep _ ht =>
    subst ht
    exact ⟨hvalid, (Nat.mod_le _ _).trans (Nat.min_le_right _ _), hcur, hwf, hbelow⟩
  | operands src dst proto seg rest rep ht =>
    subst ht
    exact ⟨hvalid, hlen, hcur, hwf, hbelow⟩

/-! ### The scalar results (rules R24, R31, R39) -/

theorem CommandEffect.scalarsAgree {s t : State} {i : Instr} (h : CommandEffect s i t) (hs : s.ScalarsAgree) :
    t.ScalarsAgree := by
  by_cases hi : i = .nop
  · subst hi
    cases h with
    | nop => exact hs
    | raised _ _ he => simp [endings] at he
    | parseFailed _ hi | checksum _ hi | verdict _ hi | unsupported hi => simp at hi
  · obtain ⟨hcsum, hvfy, -, -⟩ := h.scalars hi
    obtain ⟨hcsumV, hvfyV, hvfyTrue⟩ := h.flags hi
    exact ⟨endings_stage (h.ending hi), hcsum, hvfy, hcsumV, hvfyV, hvfyTrue⟩

theorem step_scalarsAgree {s t : State} (hs : s.ScalarsAgree) (h : step s = .next t) : t.ScalarsAgree := by
  have ⟨hstage, hcsum, hvfy, hcsumV, hvfyV, hvfyTrue⟩ := hs
  cases step_effect h with
  | idle _ ht => exact ht ▸ hs
  | command w i rest _ _ ht =>
    exact (exec_effect ht).scalarsAgree ⟨hstage, hcsum, hvfy, hcsumV, hvfyV, hvfyTrue⟩
  | reset rest _ ht =>
    subst ht
    exact ⟨iff_of_false (not_not.2 rfl) nofun, fun _ => rfl, fun _ => rfl, nofun, nofun, nofun⟩
  | illegal w rest _ ht =>
    subst ht
    exact ⟨iff_of_false (not_not.2 rfl) nofun, fun _ => rfl, fun _ => rfl, nofun, nofun, nofun⟩
  | fbWrite a b rest rep _ _ ht =>
    subst ht
    exact ⟨hstage, hcsum, hvfy, hcsumV, hvfyV, hvfyTrue⟩
  | flenWrite v rest rep _ ht =>
    subst ht
    exact ⟨hstage, hcsum, hvfy, hcsumV, hvfyV, hvfyTrue⟩
  | operands src dst proto seg rest rep ht =>
    subst ht
    exact ⟨hstage, hcsum, hvfy, hcsumV, hvfyV, hvfyTrue⟩

/-! ### The view (rules R40, R78) -/

/-- A step that changes the frame drops the view. -/
theorem step_frame_eq_or_dropped {s t : State} (h : step s = .next t) :
    t.frame = s.frame ∨ t.heldView = s.dropView.heldView := by
  cases step_effect h with
  | idle _ ht => subst ht; exact .inl rfl
  | illegal w rest _ ht => subst ht; exact .inl rfl
  | operands src dst proto seg rest rep ht => subst ht; exact .inl rfl
  | reset rest _ ht => subst ht; exact .inr rfl
  | fbWrite a b rest rep _ _ ht => subst ht; exact .inr rfl
  | flenWrite v rest rep _ ht => subst ht; exact .inr rfl
  | command w i rest _ _ ht =>
    have hflen := (exec_effect ht).keeps.1
    rcases (exec_effect ht).heldView_cases with ⟨-, hfb⟩ | ⟨-, hfb⟩ | ⟨-, hv⟩
    · exact .inl (by rw [State.frame, hfb, hflen]; rfl)
    · exact .inl (by rw [State.frame, hfb, hflen]; rfl)
    · exact .inr hv

namespace State

/-- The clause is about the frame and the held view alone. -/
theorem ViewIsCurrent.of_eq {s t : State} (hs : s.ViewIsCurrent) (hf : t.frame = s.frame)
    (hv : t.heldView = s.heldView) : t.ViewIsCurrent := by
  simp only [frame, RawFrame.mk.injEq, BitVec.toNat_inj] at hf
  simp only [heldView, HeldView.mk.injEq] at hv
  obtain ⟨hfb, hflen⟩ := hf
  obtain ⟨hview, hl3, hl4, heth, hip4, htcp, hudp, hpay⟩ := hv
  simpa only [ViewIsCurrent, Layout.parseFits, Layout.parsecFits, Layout.parsed, Layout.parsedChecksum, hfb, hflen,
    hview, hl3, hl4, heth, hip4, htcp, hudp, hpay] using hs

theorem viewIsCurrent_of_view_none {s : State} (h : s.status.view = .none) : s.ViewIsCurrent := by
  constructor <;> rw [h] <;> nofun

theorem parsed_viewIsCurrent {s : State} (h : Layout.parseFits s) : (Layout.parsed s).ViewIsCurrent :=
  ⟨fun _ => ⟨h, rfl, rfl, rfl, rfl, rfl, rfl, rfl⟩, nofun⟩

theorem parsedChecksum_viewIsCurrent {s : State} (h : Layout.parsecFits s) :
    (Layout.parsedChecksum s).ViewIsCurrent :=
  ⟨nofun, fun _ => ⟨h, rfl, rfl, rfl, rfl, rfl⟩⟩

end State

/-- A decode that succeeds is of a frame that fits, and gives what the layout tables read. -/
theorem heldView_of_decodeFrame {s : State} {d : DecodedFrame} {c : Nat} (h : decodeFrame s.frame = .ok (d, c)) :
    Layout.parseFits s ∧ (s.dropView.commitDecoded d c).heldView = (Layout.parsed s).heldView := by
  by_cases hfits : Layout.parseFits s
  · rw [decodeFrame_ok hfits] at h
    cases h
    exact ⟨hfits, by rw [← commitDecoded_layout s]; rfl⟩
  · obtain ⟨e, he, -⟩ := decode_cases_of_not_parseFits hfits
    rw [he] at h
    cases h

theorem heldView_of_decodeChecksumFrame {s : State} {d : ChecksumFrame} {c : Nat}
    (h : decodeChecksumFrame s.frame = .ok (d, c)) :
    Layout.parsecFits s ∧ (s.dropView.commitChecksumFrame d c).heldView = (Layout.parsedChecksum s).heldView := by
  by_cases hfits : Layout.parsecFits s
  · rw [decodeChecksumFrame_ok hfits] at h
    cases h
    exact ⟨hfits, by rw [← commitChecksumFrame_layout s]; rfl⟩
  · obtain ⟨e, -, he, -⟩ := decode_cases_of_not_parsecFits hfits
    rw [he] at h
    cases h

/-- A view kept over an unchanged frame stays current, and a parse makes one that is. -/
theorem ViewStep.viewIsCurrent {s t : State} (h : ViewStep s t) (hs : s.ViewIsCurrent)
    (hf : t.frame = s.frame ∨ t.heldView = s.dropView.heldView) : t.ViewIsCurrent := by
  rcases hf with hf | hd
  case inr => exact State.viewIsCurrent_of_view_none (fields_of_dropped hd).1
  cases h with
  | kept h => exact hs.of_eq hf h
  | dropped h => exact State.viewIsCurrent_of_view_none (fields_of_dropped h).1
  | decoded d c hd h =>
    obtain ⟨hfits, hv⟩ := heldView_of_decodeFrame hd
    exact (State.parsed_viewIsCurrent hfits).of_eq hf (h.trans hv)
  | checksum d c hd h =>
    obtain ⟨hfits, hv⟩ := heldView_of_decodeChecksumFrame hd
    exact (State.parsedChecksum_viewIsCurrent hfits).of_eq hf (h.trans hv)

/-! ### Reset and step -/

theorem resetWith_inv {c : Config} (hc : c.Valid) (k : Nat) : (State.resetWith c k).Inv where
  buffer := ⟨hc, Nat.zero_le _, Nat.zero_le _, rfl, rfl⟩
  scalars := ⟨iff_of_false (not_not.2 rfl) nofun, fun _ => rfl, fun _ => rfl, nofun, nofun, nofun⟩
  groups := State.resetWith_absentGroupsZero c k
  view := State.viewIsCurrent_of_view_none rfl

/-- Settles O54: an empty buffer, zero scalars and no view; the examples' capacity is one that rule R6 allows. -/
theorem resetMeetsTheInvariant : Obligations.ResetMeetsTheInvariant :=
  ⟨fun _ k hc => resetWith_inv hc k, resetWith_inv (by decide) 0⟩

/-- Settles O56: each clause of the invariant is kept by every case of a step. -/
theorem stepKeepsTheInvariant : Obligations.StepKeepsTheInvariant := fun _ _ hs h =>
  { buffer := step_bufferBounded hs h
    scalars := step_scalarsAgree hs.scalars h
    groups := hs.groups.of_viewStep (step_viewStep h)
    view := (step_viewStep h).viewIsCurrent hs.view (step_frame_eq_or_dropped h) }

end Sys2Proof.Machine

/-! ## Encoding (spec/30_encoding.md rules R90 to R93, R99)

The decoder accepts exactly the words the encoder gives, and the step on a word written to CMD is its command's. -/

namespace Sys2Proof.Machine

/-- Settles O1: one equivalence, read in both directions. -/
theorem decodeAndEncodeAgree : Obligations.DecodeAndEncodeAgree :=
  ⟨fun _ _ => decode_eq_ok_iff.2 rfl, fun _ i h => ⟨decode_eq_ok_iff.1 h, i.fields_legal⟩⟩

/-- Settles O3: each word is the word of its command. -/
theorem tableWordsDecode : Obligations.TableWordsDecode := by
  simp only [Obligations.TableWordsDecode, decode_eq_ok_iff]
  decide

theorem execWord_of_decode {w : Word} {i : Instr} (h : decode w = .ok i) (s : State) :
    execWord w s = exec i s := by
  rw [execWord, h]

/-- The step on a legal word written to CMD (rule R92). -/
theorem step_of_decode {s : State} {w : Word} {i : Instr} {rest : List HostInput}
    (hp : s.pending = .write 0x00#6 w :: rest) (h : decode w = .ok i) :
    step s = exec i { s with pending := rest, reply := .nothing } := by
  rw [step_cons hp, serve_command, execWord_of_decode h]

/-- The command of a table word is that of the 32-bit word `withFetchWord` places. -/
theorem decode_of_decodeTableWord {nbits w : Nat} {i : Instr} (h : decodeTableWord nbits w = some i) :
    decode (BitVec.ofNat 32 (w % 2 ^ nbits)) = .ok i := by
  simp only [decodeTableWord] at h
  split_ifs at h
  split at h
  · next hd => cases h; exact hd
  · cases h

/-- Settles O4: the step serves the word written, whether the host or `withFetchWord` placed it. -/
theorem stepRunsTheDecodedCommand : Obligations.StepRunsTheDecodedCommand :=
  ⟨fun _ _ _ _ => step_of_decode, fun s nbits w _ h =>
    step_of_decode (s := s.withFetchWord nbits w) (rest := s.pending) rfl (decode_of_decodeTableWord h)⟩

namespace AsmLine

theorem issue_cons {s t u : State} {input : HostInput} {inputs : List HostInput} {rs : List HostReply}
    (h : step { s with pending := [input] } = .next t) (hrest : issue inputs t = some (u, rs)) :
    issue (input :: inputs) s = some (u, t.reply :: rs) := by
  simp [issue, h, hrest]

/-- The last transaction of a line. -/
theorem issue_single {s t : State} {input : HostInput} (h : step { s with pending := [input] } = .next t) :
    issue [input] s = some (t, [t.reply]) :=
  issue_cons h rfl

/-- A line that asserts nothing runs as its transactions are issued. -/
theorem run_of_issue {l : AsmLine} {s t : State} {rs : List HostReply} (hassert : l.asserted = none)
    (h : issue l.inputs s = some (t, rs)) : l.run s = some t := by
  simp [run, hassert, h]

end AsmLine

/-- Settles O59: the line issues one write of the command's word, whose step is the command. -/
theorem commandLineRunsTheCommand : Obligations.CommandLineRunsTheCommand := by
  intro i s t h
  have hstep : step { s with pending := [.write 0x00#6 (encode i)] } = .next t :=
    (step_of_decode rfl (decode_eq_ok_iff.2 rfl)).trans h
  exact ⟨rfl, AsmLine.run_of_issue (l := .command i) rfl (AsmLine.issue_single hstep)⟩

end Sys2Proof.Machine

/-! ## Two-byte stores (spec/20_memory.md rules R61, R66) -/

namespace Sys2Proof.Machine

/-- The bits of a word from bit `k` on, as a number. -/
theorem extractLsb'_eq_ofNat_div {w : Nat} (v : BitVec w) (k n : Nat) :
    v.extractLsb' k n = BitVec.ofNat n (v.toNat / 2 ^ k) := by
  rw [BitVec.extractLsb', Nat.shiftRight_eq_div_pow]

/-- The low bits of a word, as a number. -/
theorem extractLsb'_zero_eq_ofNat_mod {w : Nat} (v : BitVec w) (n : Nat) :
    v.extractLsb' 0 n = BitVec.ofNat n (v.toNat % 2 ^ n) := by
  apply BitVec.eq_of_toNat_eq
  simp

/-- Settles O9: the law of reads after a two-byte store, its bytes as numbers. -/
theorem memWriteStoresTwoBytes : Obligations.MemWriteStoresTwoBytes := by
  intro m a x v
  have hhigh : v.extractLsb' 8 8 = BitVec.ofNat 8 (v.toNat / 256) := extractLsb'_eq_ofNat_div v 8 8
  have hlow : v.extractLsb' 0 8 = BitVec.ofNat 8 (v.toNat % 256) := extractLsb'_zero_eq_ofNat_mod v 8
  exact ⟨by rw [Memory.read_write16, hhigh, hlow], Memory.wf_write16 a v⟩

/-- A two-byte store leaves every address alone but its two. -/
theorem read_write16_of_ne {m : Memory} {a x : Nat} {v : Half} (h : x ≠ a ∧ x ≠ a + 1) :
    (m.write16 a v).read x = m.read x := by
  rw [Memory.read_write16, if_neg h.1, if_neg h.2]

/-- The field a two-byte store wrote reads back (rule R61). -/
theorem u16_write16 (m : Memory) (a : Nat) (v : Half) : Layout.u16 (m.write16 a v) a = v := by
  apply BitVec.eq_of_toNat_eq
  rw [← Memory.bigEndian_two, Memory.bigEndian_two_bytes, ← sum16_two, sum16_write16]

end Sys2Proof.Machine

/-! ## The engine's sums (spec/43_checksum.md rules R176, R182, R183, R185)

A range splits at even points, so a verification's sum is a checksum's and the field's own word. With the field's word
the checksum, the total is a positive multiple of 65535, which folds to 0xFFFF. -/

namespace Sys2Proof.Machine

/-! ### Splitting a range (rule R183) -/

theorem sum16_split (m : Memory) (a : Nat) {n k : Nat} (hk : k % 2 = 0) (hkn : k ≤ n) :
    sum16 m a n = sum16 m a k + sum16 m (a + k) (n - k) := by
  obtain ⟨j, rfl⟩ : ∃ j, k = 2 * j := ⟨k / 2, by omega⟩
  obtain ⟨r, rfl⟩ := Nat.exists_eq_add_of_le hkn
  have hhalf : (2 * j + r) / 2 = j + r / 2 := by omega
  have hlast : a + (2 * j + r) - 1 = a + 2 * j + r - 1 := by omega
  rw [sum16_even m a hk, Nat.add_sub_cancel_left, sum16, sum16, hhalf, wordSum_add, hlast, Nat.mul_add_mod,
    Nat.mul_div_cancel_left j (by decide), Nat.add_assoc]

/-- A range is what stands before a word at an even point, the word, and what stands behind it. -/
theorem sum16_split_word (m : Memory) (a : Nat) {n off : Nat} (hoff : off % 2 = 0) (hn : off + 2 ≤ n) :
    sum16 m a n = sum16 m a off + sum16 m (a + off) 2 + sum16 m (a + off + 2) (n - off - 2) := by
  have hrest : 2 ≤ n - off := by omega
  rw [sum16_split m a hoff (by omega), sum16_split m (a + off) (n := n - off) (by decide) hrest, ← Nat.add_assoc]

/-- A two-byte store changes no sum of a range it lies outside of. -/
theorem sum16_write16_ne (m : Memory) {a n x : Nat} (v : Half) (h : a + n ≤ x ∨ x + 2 ≤ a) :
    sum16 (m.write16 x v) a n = sum16 m a n :=
  sum16_congr fun y hy hlt => Memory.read_write16_ne m v (by omega)

/-- A range with the word at an even point overwritten. -/
theorem sum16_write16_word (m : Memory) (a : Nat) {n off : Nat} (v : Half) (hoff : off % 2 = 0)
    (hn : off + 2 ≤ n) :
    sum16 (m.write16 (a + off) v) a n
      = sum16 m a off + v.toNat + sum16 m (a + off + 2) (n - off - 2) := by
  rw [sum16_split_word _ a hoff hn, sum16_write16, sum16_write16_ne m v (by omega),
    sum16_write16_ne m v (by omega)]

/-- Settles O23: the split, and the store of 0 in the field. -/
theorem sumSplitsAtEvenPoints : Obligations.SumSplitsAtEvenPoints :=
  ⟨fun m a _ _ hk hkn => sum16_split m a hk hkn, fun m a _ _ hoff hn =>
    (sum16_write16_word m a 0#16 hoff hn).symm⟩

/-! ### Checksum and verification (rules R182, R185) -/

theorem even_of_field {p : Byte} {off : Nat} (h : FieldOffset p off) : off % 2 = 0 := by
  rcases h with ⟨-, rfl⟩ | ⟨-, rfl⟩ <;> rfl

/-- A verification sums what a checksum does and the field. -/
theorem verifyAcc_eq_checksumAcc_add (m : Memory) {x : EngineArgs} {off : Nat} (h : FieldOffset x.proto off)
    (hl : off + 2 ≤ x.seg.len.toNat) :
    verifyAcc m x = checksumAcc m x off + sum16 m (x.seg.off.toNat + off) 2 := by
  rw [verifyAcc, checksumAcc, sum16_split_word m _ (even_of_field h) hl]
  omega

/-- The two bytes of the field are never read by a checksum (rule R174). -/
theorem checksumAcc_write16 (m : Memory) (x : EngineArgs) (off : Nat) (v : Half) :
    checksumAcc (m.write16 (x.seg.off.toNat + off) v) x off = checksumAcc m x off := by
  rw [checksumAcc, checksumAcc, sum16_write16_ne m v (by omega), sum16_write16_ne m v (by omega)]

/-- A positive accumulator and its complement are a multiple of 65535 together (rule R182). -/
theorem onesSum_add_complement {x : Nat} (hpos : 0 < x) : onesSum (x + (65535 - onesSum x)) = 65535 := by
  simp only [onesSum]
  omega

theorem verdict_eq_true_iff {m : Memory} {x : EngineArgs} {off : Nat} (h : FieldOffset x.proto off) :
    verdict m x = true ↔ onesSum (verifyAcc m x) = 65535 := by
  rw [verdict_eq_onesSum (supported_of_field h), decide_eq_true_iff, verifyAcc_eq_wholeSum]

/-- A segment whose field holds its checksum verifies true (rule R182). -/
theorem verdict_write16_checksum (m : Memory) {x : EngineArgs} {off : Nat} (h : FieldOffset x.proto off)
    (hl : off + 2 ≤ x.seg.len.toNat) :
    verdict (m.write16 (x.seg.off.toNat + off) (complementFold (checksumAcc m x off))) x = true := by
  have hpos := checksumAcc_pos m h
  have hlt : checksumAcc m x off < 2 ^ 32 := (checksumAcc_le m h hl).trans_lt (by decide)
  rw [verdict_eq_true_iff h, verifyAcc_eq_checksumAcc_add _ h hl, sum16_write16, checksumAcc_write16,
    complementFold_toNat hpos hlt, onesSum_add_complement hpos]

/-- Settles O22: the checksum exists, and with it in the field the verdict is true. -/
theorem checksumThenVerifyRoundTrip : Obligations.ChecksumThenVerifyRoundTrip := fun m _ _ h hl =>
  ⟨_, checksum_ok h hl, verdict_write16_checksum m h hl⟩

/-- Settles O24: with a field of `00 00` the two accumulators are equal, and both conditions say that the complement
of its fold is 0. -/
theorem zeroFieldVerifiesOnlyOnZeroChecksum : Obligations.ZeroFieldVerifiesOnlyOnZeroChecksum := by
  intro m x off h hl hhigh hlow
  have hacc : verifyAcc m x = checksumAcc m x off := by
    rw [verifyAcc_eq_checksumAcc_add m h hl, sum16_two, hhigh, hlow]
    rfl
  rw [verdict, hacc, beq_iff_eq, checksum_ok h hl, Except.ok.injEq]

/-- A two-byte store before the segment has no part in the verdict. -/
theorem verdict_write16_before (m : Memory) {x : EngineArgs} {a : Nat} (v : Half) (h : a + 2 ≤ x.seg.off.toNat) :
    verdict (m.write16 a v) x = verdict m x := by
  rw [verdict, verdict, verifyAcc, verifyAcc, sum16_write16_ne m v (.inr h)]

/-! ### The bounds (rule R176) -/

/-- Folding early keeps the residue and positivity, which fix the fold of a sum. -/
theorem fold_add_fold {x y : Nat} (h : x + y < 2 ^ 32) : fold (x + y) = fold (fold x + fold y) := by
  have hx := fold_mod x
  have hy := fold_mod y
  have hx0 := fold_eq_zero_iff x
  have hy0 := fold_eq_zero_iff y
  have hxlt := fold_lt (x := x) (by omega)
  have hylt := fold_lt (x := y) (by omega)
  rcases Nat.eq_zero_or_pos (x + y) with hz | hpos
  · obtain ⟨rfl, rfl⟩ : x = 0 ∧ y = 0 := by omega
    rfl
  · rw [fold_eq_onesSum hpos h, fold_eq_onesSum (by omega) (by omega), onesSum, onesSum]
    omega

/-- Settles O21: the bounds of the parts, of the two accumulators, and the fold of a sum. -/
theorem accumulatorNeverOverflows : Obligations.AccumulatorNeverOverflows := by
  refine ⟨fun src dst p len => pseudo_le src dst p, fun m a n hn => ?range, verifyAcc_le,
    fun m x off => checksumAcc_le m, fun x y => fold_add_fold⟩
  case range =>
    have hle := sum16_le m a n
    omega

end Sys2Proof.Machine

/-! ## PATCH in a state the block can be in (spec/44_patch.md rules R201, R202, R205, spec/70_reset_and_hazards.md rule
R245)

PATCH writes two or four bytes, all of them outside the bytes that the header layout of a parse depends on but
total_length; so a PARSEC after it finds the segment again, whose field now holds its checksum. -/

namespace Sys2Proof.Machine

/-- Where a buffer that PATCH wrote reads as before (rule R201). -/
theorem read_checksumPatchedBuffer {s : State} {off a : Nat} {sum : Half} {l : Bool}
    (hsum : a ≠ s.csumFieldAddr off ∧ a ≠ s.csumFieldAddr off + 1) (hlen : l = true → a ≠ 16 ∧ a ≠ 17) :
    (s.checksumPatchedBuffer off sum l).read a = s.fb.read a := by
  rw [State.checksumPatchedBuffer]
  split
  · next hl => exact (read_write16_of_ne (hlen hl)).trans (read_write16_of_ne hsum)
  · exact read_write16_of_ne hsum

/-- Settles O32: the two cases of PATCH that write, and what no command changes. -/
theorem patchFrame : Obligations.PatchFrame := by
  intro s t c l h
  have he := exec_effect h
  obtain ⟨hflen, hsrc, hdst, hproto, hseg, hcfg, hpending, hreply⟩ := he.keeps
  have hcur : t.cur = s.cur := he.cursor_of_not_parse nofun nofun nofun
  refine ⟨fun a hsum hlen => ?_, hflen, hcur, hsrc, hdst, hproto, hseg, hcfg, hpending, hreply⟩
  cases he with
  | patchedLength => exact read_write16_of_ne (hlen rfl)
  | patchedChecksum l off hv h3 hf => exact read_checksumPatchedBuffer (hsum rfl off hf) hlen
  | _ => rfl

/-! ### The total length (rule R202) -/

/-- The payload and the IPv4 header are the frame behind the Ethernet header. -/
theorem patchedTotalLength_of_inv {s : State} (hs : s.Inv) (hv : s.status.view = .checksum)
    (h3 : s.status.l3tag = .ipv4) : s.patchedTotalLength.toNat = s.flen.toNat - 14 := by
  obtain ⟨hend, hip⟩ := heldSegmentEndsTheFrame s hs (by rw [hv]; nofun)
  obtain ⟨-, -, -, -, hoff⟩ := hip h3
  have hoff := hoff hv
  have hlt := s.flen.isLt
  rw [patchedTotalLength_toNat]
  omega

/-- With flag L the total length is the last thing written. -/
theorem u16_tlen_of_patched {s t : State} {c : Bool} (h : CommandEffect s (.patch c true) t)
    (herr : t.status.err = .ok) : Layout.u16 t.fb 16 = s.patchedTotalLength := by
  cases h with
  | patchedLength => exact u16_write16 _ _ _
  | patchedChecksum => exact u16_write16 _ _ _
  | raised e => exact absurd herr e.code_ne_ok
  | parseFailed d => exact absurd herr d.err.code_ne_ok
  | checksum _ hi | verdict _ hi | unsupported hi => simp at hi

/-- Settles O34: the field holds the total length of the view held before. -/
theorem patchedTotalLengthCountsTheDatagram : Obligations.PatchedTotalLengthCountsTheDatagram := by
  intro s t c hs hv h3 h herr
  have hlt := s.flen.isLt
  rw [u16_tlen_of_patched (exec_effect h) herr, patchedTotalLength_of_inv hs hv h3]
  exact ⟨rfl, by omega⟩

/-! ### PATCH, PARSEC, VERIFY (rule R245) -/

/-- The engine's arguments for the segment of an IPv4 frame of `n` bytes, read off the layout tables. -/
def Layout.segmentArgs (m : Memory) (n : Nat) : EngineArgs :=
  { src := Layout.u32 m 26, dst := Layout.u32 m 30, proto := Layout.proto m
    seg := Layout.tail (14 + Layout.ipHlen m) n }

/-- An IPv4 ChecksumFrame gives the engine the segment of the frame. -/
theorem viewArgs_of_current {s : State} (hs : s.ViewIsCurrent) (hv : s.status.view = .checksum)
    (h3 : s.status.l3tag = .ipv4) : s.viewArgs = Layout.segmentArgs s.fb s.flen.toNat := by
  have hheld : s.status.view ≠ .none := by rw [hv]; nofun
  obtain ⟨-, -, -, o, -, hpay, ho⟩ := heldView_current hs hheld
  obtain ⟨he, hip4, -⟩ := heldView_ipv4 hs hheld h3
  rw [State.viewArgs, hip4, hpay, ho hv, Layout.l3End_of_ipv4 he]
  rfl

/-- The verdict on the segment in a buffer PATCH wrote: total_length stands before it, its field holds its checksum. -/
theorem verdict_checksumPatchedBuffer {s : State} {off : Nat} (l : Bool) (hoff : 34 ≤ s.payload.off.toNat)
    (hf : FieldOffset s.ip4.proto off) (hl : off + 2 ≤ s.payload.len.toNat) :
    verdict (s.checksumPatchedBuffer off (s.segmentChecksum off) l) s.viewArgs = true := by
  have hfield : verdict (s.fb.write16 (s.csumFieldAddr off) (s.segmentChecksum off)) s.viewArgs = true :=
    verdict_write16_checksum s.fb (x := s.viewArgs) hf hl
  rw [State.checksumPatchedBuffer]
  split
  · rw [verdict_write16_before _ _ (show tlenOff + 2 ≤ s.payload.off.toNat by rw [tlenOff]; omega), hfield]
  · exact hfield

/-- PARSEC on an IPv4 frame whose header fits, then VERIFY: the verdict on the segment of the frame. -/
theorem exec_parsec_verify {s : State} (hfits : Layout.parsecFits s) (he : Layout.etype s.fb = 0x0800#16)
    (hp : supported (Layout.proto s.fb) = true) :
    exec .parsec s = .next (Layout.parsedChecksum s) ∧
      exec .verify (Layout.parsedChecksum s) = .next ((Layout.parsedChecksum s).withScalars .ok .none false true
        (verdict s.fb (Layout.segmentArgs s.fb s.flen.toNat)) 0#16) := by
  have hv : (Layout.parsedChecksum s).status.view = .checksum := rfl
  have h3 : (Layout.parsedChecksum s).status.l3tag = .ipv4 := if_pos he
  have hargs := viewArgs_of_current (State.parsedChecksum_viewIsCurrent hfits) hv h3
  have hproto : (Layout.parsedChecksum s).ip4.proto = Layout.proto s.fb := congrArg EngineArgs.proto hargs
  refine ⟨exec_parsec_of_fits hfits, ?_⟩
  rw [exec_verify, if_neg (not_not.2 hv), if_neg (State.not_viewUnsupported h3 (hproto ▸ hp)), hargs]
  rfl

/-- What a parse takes from the headers stands in bytes 12 to 33, total_length apart. -/
theorem headers_congr {m m' : Memory} (h : ∀ a, 12 ≤ a → a < 34 → a ≠ 16 ∧ a ≠ 17 → m'.read a = m.read a) :
    Layout.etype m' = Layout.etype m ∧ Layout.ipHlen m' = Layout.ipHlen m ∧
      ∀ n, Layout.segmentArgs m' n = Layout.segmentArgs m n := by
  simp (disch := decide) only [Layout.segmentArgs, Layout.etype, Layout.ipHlen, Layout.proto, Layout.u16, Layout.u32,
    h, Nat.reduceAdd, implies_true, and_self]

/-- Settles O35: after PATCH there is no view; PARSEC finds the headers as they were and so the same segment, whose
field holds its checksum. -/
theorem patchParsecVerifyIsTrue : Obligations.PatchParsecVerifyIsTrue := by
  intro s l off hs hv h3 hf hl
  obtain ⟨hoff, -⟩ := hs.segmentInFrame hv h3
  obtain ⟨he, -, h34, h20, hend⟩ := heldView_ipv4 hs.view (by rw [hv]; nofun) h3
  have hargs := viewArgs_of_current hs.view hv h3
  obtain ⟨hetype, hhlen, hsegment⟩ := headers_congr
    (m' := s.checksumPatchedBuffer off (s.segmentChecksum off) l) fun a _ ha hne =>
      read_checksumPatchedBuffer (by rw [State.csumFieldAddr]; omega) fun _ => hne
  have hproto : Layout.proto (s.checksumPatchedBuffer off (s.segmentChecksum off) l) = s.ip4.proto :=
    congrArg EngineArgs.proto ((hsegment s.flen.toNat).trans hargs.symm)
  obtain ⟨hparsec, hverify⟩ := exec_parsec_verify
    (s := s.patched true (s.segmentChecksum off) (s.checksumPatchedBuffer off (s.segmentChecksum off) l))
    ⟨(by decide : 14 ≤ 34).trans h34, fun _ => ⟨h34, hhlen ▸ h20, hhlen ▸ hend⟩⟩ (hetype.trans he)
    (hproto ▸ supported_of_field hf)
  refine ⟨_, _, _, exec_patch_checksum l hv h3 hf hl, (verifyByCases _).1 nofun, hparsec, hverify, rfl, rfl, ?_⟩
  refine Eq.trans (congrArg (verdict _) ((hsegment s.flen.toNat).trans hargs.symm)) ?_
  exact verdict_checksumPatchedBuffer l hoff hf hl

end Sys2Proof.Machine

/-! ## Repeated commands (spec/20_memory.md rule R77)

A command but NOP begins by clearing the scalars, so it does not see those of the command before it; and a parse does
not see the view it replaces. -/

namespace Sys2Proof.Machine

/-- A command that begins with `BeginCommand()` does not see the scalar results it finds. -/
theorem exec_withScalars {i : Instr} (hi : i ≠ .nop) (s : State) (e : ErrCode) (g : Stage) (cv vv v : Bool)
    (c : Half) : exec i (s.withScalars e g cv vv v c) = exec i s := by
  cases i with
  | nop => exact absurd rfl hi
  | _ => rfl

/-- A failed parse replaces what a failed parse left. -/
theorem parseFailed_parseFailed (s : State) (e e' : ErrCode) (g g' : Stage) (c c' : Nat) :
    Layout.parseFailed e g c (Layout.parseFailed e' g' c' s) = Layout.parseFailed e g c s := rfl

/-- A second PARSE decodes the same frame and replaces all that the one before it left. -/
theorem exec_parse_twice {s t : State} (h : exec .parse s = .next t) : exec .parse t = .next t := by
  rcases exec_parse_cases h with ⟨d, hd, rfl⟩ | ⟨d, c, hd, rfl⟩
  · rw [raiseAt_eq_parseFailed, execParse_of_error (s := Layout.parseFailed _ _ _ s) hd, raiseAt_eq_parseFailed,
      parseFailed_parseFailed]
  · exact execParse_of_ok (s := s.beginCommand.dropView.commitDecoded d c) hd

theorem exec_parsec_twice {s t : State} (h : exec .parsec s = .next t) : exec .parsec t = .next t := by
  rcases exec_parsec_cases h with ⟨d, hd, rfl⟩ | ⟨d, c, hd, rfl⟩
  · rw [raiseAt_eq_parseFailed, execParsec_of_error (s := Layout.parseFailed _ _ _ s) hd, raiseAt_eq_parseFailed,
      parseFailed_parseFailed]
  · exact execParsec_of_ok (s := s.beginCommand.dropView.commitChecksumFrame d c) hd

/-- A checksum command changes the scalars alone, which a second one does not see. -/
theorem exec_checksum_twice {i : Instr} {s t : State} (hi : i = .cksum ∨ i = .verify ∨ i = .csumr ∨ i = .verifyr)
    (h : exec i s = .next t) : exec i t = .next t := by
  have hne : i ≠ .nop := by rcases hi with rfl | rfl | rfl | rfl <;> nofun
  rw [checksumCommandsChangeOnlyScalars i s t hi h, exec_withScalars hne, h,
    ← checksumCommandsChangeOnlyScalars i s t hi h]

/-- Settles O48: parses and checksum commands as above; a PATCH that did not write changed the scalars alone, one that
wrote left no view. -/
theorem repeatedCommands : Obligations.RepeatedCommands := by
  refine ⟨fun i s t hi h => ?_, fun c l s t h => ?_⟩
  · simp only [List.mem_cons, List.not_mem_nil, or_false] at hi
    rcases hi with rfl | rfl | hi | hi | hi | hi | rfl
    · exact exec_parse_twice h
    · exact exec_parsec_twice h
    · exact exec_checksum_twice (.inl hi) h
    · exact exec_checksum_twice (.inr (.inl hi)) h
    · exact exec_checksum_twice (.inr (.inr (.inl hi))) h
    · exact exec_checksum_twice (.inr (.inr (.inr hi))) h
    · cases h; rfl
  · rcases (exec_effect h).patch_cases with ⟨e, rfl⟩ | ⟨rfl, rfl, rfl⟩ | ⟨hflag, csumV, sum, m, rfl⟩
    · exact ⟨fun _ herr => absurd herr e.code_ne_ok, fun _ => (exec_withScalars (i := .patch c l) nofun s ..).trans h⟩
    · exact ⟨by simp, fun _ => (exec_withScalars (i := .patch false false) nofun s ..).trans h⟩
    · refine ⟨fun _ _ => exec_patch_of_view_ne nofun, ?_⟩
      rintro (⟨rfl, rfl⟩ | herr)
      · simp at hflag
      · exact absurd rfl herr

end Sys2Proof.Machine

/-! ## No command sees FB at or above FLEN (spec/20_memory.md rule R72)

Two buffers that hold the same frame give every decode the same bytes, and every sum over a segment inside the frame.
So a command whose buffer is exchanged for one with the same frame does the same. -/

namespace Sys2Proof.Machine

/-- The buffers hold the same bytes below `n`. -/
def Memory.SameBelow (n : Nat) (m m' : Memory) : Prop := ∀ a, a < n → m.read a = m'.read a

/-! ### Decodes -/

theorem Memory.SameBelow.bigEndian {n : Nat} {m m' : Memory} (h : m.SameBelow n m') {a k : Nat} (hk : a + k ≤ n) :
    m.bigEndian a k = m'.bigEndian a k := by
  induction k with
  | zero => rfl
  | succ k ih => rw [Memory.bigEndian, Memory.bigEndian, ih (by omega), h (a + k) (by omega)]

section Decodes

variable {m m' : Memory} {n : Nat}

/-- A field that fits is read inside the frame. -/
theorem Memory.SameBelow.take (h : m.SameBelow n m') :
    RawFrame.take { fb := m, flen := n } = RawFrame.take { fb := m', flen := n } := by
  funext w stage cur
  rcases Nat.lt_or_ge n (cur + w / 8) with hlt | hge
  · rw [RawFrame.take_error _ hlt, RawFrame.take_error _ hlt]
  · rw [RawFrame.take_ok _ hge, RawFrame.take_ok _ hge]
    exact congrArg (fun x => Except.ok (BitVec.ofNat w x, cur + w / 8)) (h.bigEndian hge)

theorem Memory.SameBelow.decodeFrame (h : m.SameBelow n m') :
    decodeFrame { fb := m, flen := n } = decodeFrame { fb := m', flen := n } := by
  have hopt : RawFrame.optionsSlice { fb := m, flen := n } = RawFrame.optionsSlice { fb := m', flen := n } := rfl
  simp only [Machine.decodeFrame, decodeLayer3, decodeLayer4, decodeEth, decodeIpv4, decodeTcp, decodeUdp, h.take,
    hopt, RawFrame.rest]

theorem Memory.SameBelow.decodeChecksumFrame (h : m.SameBelow n m') :
    decodeChecksumFrame { fb := m, flen := n } = decodeChecksumFrame { fb := m', flen := n } := by
  have hopt : RawFrame.optionsSlice { fb := m, flen := n } = RawFrame.optionsSlice { fb := m', flen := n } := rfl
  simp only [Machine.decodeChecksumFrame, decodeLayer3, decodeEth, decodeIpv4, h.take, hopt, RawFrame.rest]

/-! ### The engine -/

theorem Memory.SameBelow.sum16 (h : m.SameBelow n m') {a k : Nat} (hk : a + k ≤ n) :
    sum16 m a k = sum16 m' a k :=
  sum16_congr fun x _ hx => h x (by omega)

theorem Memory.SameBelow.verdict {x : EngineArgs} (h : m.SameBelow n m')
    (hx : x.seg.off.toNat + x.seg.len.toNat ≤ n) : verdict m x = verdict m' x := by
  rw [Machine.verdict, Machine.verdict, verifyAcc, verifyAcc, h.sum16 hx]

theorem Memory.SameBelow.checksum {x : EngineArgs} (h : m.SameBelow n m')
    (hx : x.seg.off.toNat + x.seg.len.toNat ≤ n) : checksum m x = checksum m' x := by
  by_cases hu : Unsupported x.proto
  · simp [Machine.checksum, csumOff_of_unsupported hu]
  obtain ⟨off, hf⟩ := field_of_supported (supported_eq_true.2 hu)
  rcases Nat.lt_or_ge x.seg.len.toNat (off + 2) with hl | hl
  · rw [checksum_short hf hl, checksum_short hf hl]
  · rw [checksum_ok hf hl, checksum_ok hf hl, checksumAcc, checksumAcc, h.sum16 (by omega), h.sum16 (by omega)]

end Decodes

/-! ### Commands -/

theorem l3tag_of_not_viewUnsupported {s : State} (h : s.viewUnsupported = false) : s.status.l3tag = .ipv4 := by
  by_contra h3
  exact absurd (State.viewUnsupported_eq_true.2 (.inl h3)) (ne_true_of_eq_false h)

/-- The commit writes the same bytes at the same addresses, whatever the buffer held. -/
theorem commitPatch_exchange (plan : Option (Nat × Half)) (l : Bool) (s : State) (m : Memory) :
    State.commitPatch plan l { s with fb := m }
      = { s.commitPatch plan l with fb := (State.commitPatch plan l { s with fb := m }).fb } := by
  cases plan <;> cases l <;> rfl

theorem Memory.SameBelow.write16 {n : Nat} {m m' : Memory} (h : m.SameBelow n m') (a : Nat) (v : Half) :
    (m.write16 a v).SameBelow n (m'.write16 a v) := by
  intro x hx
  rw [Memory.read_write16, Memory.read_write16, h x hx]

theorem commitPatch_sameBelow {n : Nat} {s : State} {m : Memory} (plan : Option (Nat × Half)) (l : Bool)
    (h : s.fb.SameBelow n m) :
    (s.commitPatch plan l).fb.SameBelow n (State.commitPatch plan l { s with fb := m }).fb := by
  cases plan <;> cases l
  case none.false => exact h
  case none.true => exact h.write16 _ _
  case some.false => exact h.write16 _ _
  case some.true => exact (h.write16 _ _).write16 _ _

section Exchange

variable {s s' : State} {m : Memory} (h : s.fb.SameBelow s.flen.toNat m)

include h

theorem exec_parse_exchange (he : exec .parse s = .next s') :
    exec .parse { s with fb := m } = .next { s' with fb := m } := by
  have hd : decodeFrame { s with fb := m }.frame = decodeFrame s.frame := h.decodeFrame.symm
  rcases exec_parse_cases he with ⟨d, hs, rfl⟩ | ⟨d, c, hs, rfl⟩
  · exact execParse_of_error (hd.trans hs)
  · exact execParse_of_ok (hd.trans hs)

theorem exec_parsec_exchange (he : exec .parsec s = .next s') :
    exec .parsec { s with fb := m } = .next { s' with fb := m } := by
  have hd : decodeChecksumFrame { s with fb := m }.frame = decodeChecksumFrame s.frame := h.decodeChecksumFrame.symm
  rcases exec_parsec_cases he with ⟨d, hs, rfl⟩ | ⟨d, c, hs, rfl⟩
  · exact execParsec_of_error (hd.trans hs)
  · exact execParsec_of_ok (hd.trans hs)

/-- Once the window of CSUMR and VERIFYR is tested it lies in the frame. -/
theorem hostArgs_exchange (hw : s.windowOutside = false) :
    checksum s.fb s.hostArgs = checksum m s.hostArgs ∧ verdict s.fb s.hostArgs = verdict m s.hostArgs := by
  rw [State.windowOutside, decide_eq_false_iff_not, Nat.not_lt] at hw
  exact ⟨h.checksum hw, h.verdict hw⟩

theorem exec_csumr_exchange (he : exec .csumr s = .next s') :
    exec .csumr { s with fb := m } = .next { s' with fb := m } := by
  refine (exec_csumr { s with fb := m }).trans (congrArg Host.Outcome.next ?_)
  rcases exec_csumr_cases he with ⟨hp, rfl⟩ | ⟨hp, hw, rfl⟩ | ⟨hp, hw, hans⟩
  · exact if_pos hp
  · exact (if_neg (ne_false_of_eq_true hp)).trans (if_pos hw)
  · refine (if_neg (ne_false_of_eq_true hp)).trans ((if_neg (ne_true_of_eq_false hw)).trans ?_)
    have hsum := (hostArgs_exchange h hw).1.symm
    rcases hans with ⟨e, hs, rfl⟩ | ⟨c, hs, rfl⟩ <;> exact congrArg (State.withAnswer _) (hsum.trans hs)

theorem exec_verifyr_exchange (he : exec .verifyr s = .next s') :
    exec .verifyr { s with fb := m } = .next { s' with fb := m } := by
  refine (exec_verifyr { s with fb := m }).trans (congrArg Host.Outcome.next ?_)
  rcases exec_verifyr_cases he with ⟨hp, rfl⟩ | ⟨hp, hw, rfl⟩ | ⟨hp, hw, rfl⟩
  · exact if_pos hp
  · exact (if_neg (ne_false_of_eq_true hp)).trans (if_pos hw)
  · refine (if_neg (ne_false_of_eq_true hp)).trans ((if_neg (ne_true_of_eq_false hw)).trans ?_)
    rw [(hostArgs_exchange h hw).2]
    rfl

variable (hseg : s.SegmentInFrame)

include hseg

/-- The segment of an IPv4 ChecksumFrame lies in the frame. -/
theorem viewArgs_exchange (hv : s.status.view = .checksum) (h3 : s.status.l3tag = .ipv4) :
    checksum s.fb s.viewArgs = checksum m s.viewArgs ∧ verdict s.fb s.viewArgs = verdict m s.viewArgs :=
  ⟨h.checksum (hseg hv h3).2, h.verdict (hseg hv h3).2⟩

theorem exec_cksum_exchange (he : exec .cksum s = .next s') :
    exec .cksum { s with fb := m } = .next { s' with fb := m } := by
  refine (exec_cksum { s with fb := m }).trans (congrArg Host.Outcome.next ?_)
  rcases exec_cksum_cases he with ⟨hv, rfl⟩ | ⟨hv, hu, rfl⟩ | ⟨hv, hu, hans⟩
  · exact if_pos hv
  · exact (if_neg (not_not.2 hv)).trans (if_pos hu)
  · refine (if_neg (not_not.2 hv)).trans ((if_neg (ne_true_of_eq_false hu)).trans ?_)
    have hsum := (viewArgs_exchange h hseg hv (l3tag_of_not_viewUnsupported hu)).1.symm
    rcases hans with ⟨e, hs, rfl⟩ | ⟨c, hs, rfl⟩ <;> exact congrArg (State.withAnswer _) (hsum.trans hs)

theorem exec_verify_exchange (he : exec .verify s = .next s') :
    exec .verify { s with fb := m } = .next { s' with fb := m } := by
  refine (exec_verify { s with fb := m }).trans (congrArg Host.Outcome.next ?_)
  rcases exec_verify_cases he with ⟨hv, rfl⟩ | ⟨hv, hu, rfl⟩ | ⟨hv, hu, rfl⟩
  · exact if_pos hv
  · exact (if_neg (not_not.2 hv)).trans (if_pos hu)
  · refine (if_neg (not_not.2 hv)).trans ((if_neg (ne_true_of_eq_false hu)).trans ?_)
    rw [(viewArgs_exchange h hseg hv (l3tag_of_not_viewUnsupported hu)).2]
    rfl

theorem patchPlan_exchange (hv : s.status.view = .checksum) (h3 : s.status.l3tag = .ipv4) (c : Bool) :
    State.patchPlan c { s with fb := m } = s.patchPlan c := by
  have hsum : checksum m (State.viewArgs { s with fb := m }) = checksum s.fb s.viewArgs :=
    (viewArgs_exchange h hseg hv h3).1.symm
  rw [State.patchPlan, State.patchPlan, hsum]

/-- PATCH commits the same plan to the other buffer. -/
theorem exec_patch_exchange {c l : Bool} (he : exec (.patch c l) s = .next s') :
    ∃ m', exec (.patch c l) { s with fb := m } = .next { s' with fb := m' } ∧ s'.fb.SameBelow s.flen.toNat m' := by
  rcases exec_patch_cases he with ⟨hv, rfl⟩ | ⟨hv, rfl, rfl, rfl⟩ | ⟨hv, hflag, h3, rfl⟩ |
    ⟨hv, hflag, h3, ⟨e, hp, rfl⟩ | ⟨plan, hp, rfl⟩⟩
  · exact ⟨m, exec_patch_of_view_ne hv, h⟩
  · exact ⟨m, exec_patch_unflagged hv, h⟩
  · exact ⟨m, exec_patch_of_l3tag_ne hv hflag h3, h⟩
  · exact ⟨m, exec_patch_of_plan_error hv hflag h3 ((patchPlan_exchange h hseg hv h3 c).trans hp), h⟩
  · have hplan := (patchPlan_exchange h hseg hv h3 c).trans hp
    refine ⟨_, ?_, commitPatch_sameBelow (s := s.beginCommand) plan l h⟩
    rw [exec_patch_of_plan_ok (s := { s with fb := m }) hv hflag h3 hplan]
    exact congrArg Host.Outcome.next (commitPatch_exchange plan l s.beginCommand m)

/-- A command does the same to a state whose buffer holds the same frame. -/
theorem exec_exchange {i : Instr} (he : exec i s = .next s') :
    ∃ m', exec i { s with fb := m } = .next { s' with fb := m' } ∧ s'.fb.SameBelow s.flen.toNat m' := by
  have unchanged (hi : ∀ c l, i ≠ .patch c l) (hm : exec i { s with fb := m } = .next { s' with fb := m }) :
      ∃ m', exec i { s with fb := m } = .next { s' with fb := m' } ∧ s'.fb.SameBelow s.flen.toNat m' :=
    ⟨m, hm, by rwa [(exec_effect he).fb_eq hi]⟩
  cases i with
  | nop => cases he; exact ⟨m, rfl, h⟩
  | clr => cases he; exact ⟨m, rfl, h⟩
  | parse => exact unchanged nofun (exec_parse_exchange h he)
  | parsec => exact unchanged nofun (exec_parsec_exchange h he)
  | cksum => exact unchanged nofun (exec_cksum_exchange h hseg he)
  | verify => exact unchanged nofun (exec_verify_exchange h hseg he)
  | csumr => exact unchanged nofun (exec_csumr_exchange h he)
  | verifyr => exact unchanged nofun (exec_verifyr_exchange h he)
  | patch c l => exact exec_patch_exchange h hseg he

end Exchange

/-- No command writes at or above FLEN. -/
theorem CommandEffect.read_above {i : Instr} {s t : State} (h : CommandEffect s i t) (hseg : s.SegmentInFrame) {a : Nat}
    (ha : s.flen.toNat ≤ a) : t.fb.read a = s.fb.read a :=
  h.fb_induction (P := fun m => m.read a = s.fb.read a) hseg rfl fun m _ v hm hb =>
    (Memory.read_write16_ne m v (.inr (hb.trans_le ha))).trans hm

/-- States that agree on the frame differ in nothing but the buffer. -/
theorem State.AgreeOnFrame.eq_exchange {s t : State} (h : s.AgreeOnFrame t) : { s with fb := t.fb } = t :=
  (congrArg (fun r : State => { r with fb := t.fb }) h.rest).symm

/-- Settles O49: the command on the exchanged buffer, and PATCH's writes inside the frame. -/
theorem commandsSeeOnlyTheFrame : Obligations.CommandsSeeOnlyTheFrame := by
  intro i s t s' hs hagree h
  have ht := hagree.eq_exchange
  have hseg := hs.segmentInFrame
  have hflen := congrArg State.flen ht
  obtain ⟨m', hm', hsame⟩ := exec_exchange hagree.bytes hseg h
  rw [ht] at hm'
  refine ⟨_, hm', ⟨rfl, ?_⟩, fun a ha => ⟨(exec_effect h).read_above hseg ha, (exec_effect hm').read_above ?_ ?_⟩⟩
  · rw [(exec_effect h).keeps.1]
    exact hsame
  · rw [← ht]
    exact hseg
  · rwa [← hflen]

end Sys2Proof.Machine

/-! ## The host's registers (spec/10_state.md rules R21 to R30) -/

namespace Sys2Proof.Machine

/-! ### Writes (rules R22, R25, R27 to R30) -/

/-- The step on a register write other than of CMD (rule R70). -/
theorem step_of_regWrite {s : State} {n : RegNum} {v : Word} {rest : List HostInput}
    (hp : s.pending = .write n v :: rest) (hn : n ≠ 0x00#6) :
    step s = .next (State.hostWrite n v { s with pending := rest, reply := .nothing }) := by
  rw [step_cons hp]
  exact if_neg hn

/-- A register that is not one of the five the host can write beside CMD ignores the write (rule R22). -/
theorem hostWrite_ignored {n : RegNum} (v : Word) (s : State)
    (hn : n ∉ [0x00#6, 0x02#6, 0x04#6, 0x05#6, 0x06#6, 0x07#6]) : s.hostWrite n v = s := by
  unfold State.hostWrite
  split
  case h_6 => rfl
  all_goals
    next hr =>
      rw [← num_of_ofNum hr] at hn
      exact absurd hn (by decide)

/-- Settles O37: the register's number selects its arm of `hostWrite`. -/
theorem hostRegisterWrites : Obligations.HostRegisterWrites := by
  intro s n v rest hp
  refine ⟨?flen, ?src, ?dst, ?proto, ?seg, ?ignored⟩
  case ignored =>
    intro hn
    rw [step_of_regWrite hp (fun h => hn (h ▸ List.mem_cons_self)), hostWrite_ignored v _ hn]
  all_goals
    rintro rfl
    rw [step_of_regWrite hp (by decide)]
  case flen =>
    have hv : (v.extractLsb' 0 16).toNat = v.toNat % 65536 := by simp
    rw [← hv]
    rfl
  case src => rfl
  case dst => rfl
  case proto =>
    have hv : v.extractLsb' 0 8 = BitVec.ofNat 8 (v.toNat % 256) := extractLsb'_zero_eq_ofNat_mod v 8
    rw [← hv]
    rfl
  case seg =>
    have hoff : v.extractLsb' 0 16 = BitVec.ofNat 16 (v.toNat % 65536) := extractLsb'_zero_eq_ofNat_mod v 16
    have hlen : v.extractLsb' 16 16 = BitVec.ofNat 16 (v.toNat / 65536) := extractLsb'_eq_ofNat_div v 16 16
    rw [← hoff, ← hlen]
    rfl

/-! ### Reads (rules R21, R22) -/

theorem Slice.toWord_toNat (d : Slice) : d.toWord.toNat = d.len.toNat * 65536 + d.off.toNat := by
  rw [Slice.toWord, BitVec.toNat_append, ← Nat.shiftLeft_add_eq_or_of_lt d.off.isLt, Nat.shiftLeft_eq]

theorem hostRead_num (s : State) (r : RegName) : s.hostRead r.num = r.value s := by
  rw [State.hostRead, ofNum_num]

/-- CMD and the unassigned numbers read 0 (rule R22). -/
theorem hostRead_of_not_num {s : State} {n : RegNum} (h : ∀ r : RegName, r ≠ .CMD → r.num ≠ n) :
    s.hostRead n = 0#32 := by
  cases hn : RegName.ofNum n with
  | none => rw [State.hostRead, hn]
  | some r =>
    obtain rfl : r = .CMD := by
      by_contra hr
      exact h r hr (num_of_ofNum hn)
    rw [State.hostRead, hn]
    rfl

/-- The transactions to come have no part in what a register reads. -/
theorem value_pending (r : RegName) (s : State) (p : List HostInput) :
    r.value { s with pending := p } = r.value s := by
  cases r <;> rfl

/-- The registers that hold something: all but CMD. -/
def readableRegs : List RegName := RegName.all.tail

theorem mem_readableRegs (r : RegName) : r ∈ readableRegs ↔ r ≠ .CMD := by
  cases r <;> decide

/-- The numbers of the readable registers with what they read as. -/
def readTable (s : State) : List (RegNum × Nat) := readableRegs.map fun r => (r.num, (r.value s).toNat)

theorem hostRead_of_mem_readTable {s : State} {n : RegNum} {v : Nat} (h : (n, v) ∈ readTable s) (p : List HostInput) :
    State.hostRead { s with pending := p } n = BitVec.ofNat 32 v := by
  obtain ⟨r, -, hr⟩ := List.mem_map.1 h
  cases hr
  rw [hostRead_num, value_pending, BitVec.ofNat_toNat, BitVec.setWidth_eq]

theorem hostRead_of_not_mem_readTable {s : State} {n : RegNum} (h : n ∉ (readTable s).map Prod.fst)
    (p : List HostInput) : State.hostRead { s with pending := p } n = 0#32 := by
  refine hostRead_of_not_num fun r hr hn => h ?_
  rw [readTable, List.map_map]
  exact List.mem_map.2 ⟨r, (mem_readableRegs r).2 hr, hn⟩

/-- The step on a register read (rule R70). -/
theorem step_of_regRead {s : State} {n : RegNum} {rest : List HostInput} (hp : s.pending = .read n :: rest) :
    step s = .next { s with pending := rest, reply := .word (State.hostRead { s with pending := rest } n) } := by
  rw [step_cons hp]
  rfl

/-- Settles O38: the table is that of the register map, each narrower field at its own value. -/
theorem hostRegisterReads : Obligations.HostRegisterReads := by
  intro s rest table
  have htable : table = readTable s := by
    simp (disch := decide) only [table, readTable, readableRegs, RegName.all, List.cons_append, List.nil_append,
      List.tail_cons, List.map_cons, List.map_nil, RegName.num, RegName.value, BitVec.toNat_setWidth_of_le,
      Slice.toWord_toNat]
  rw [htable]
  refine ⟨fun n v hm hp => ?_, fun n hm hp => ?_⟩
  · rw [step_of_regRead hp, hostRead_of_mem_readTable hm]
  · rw [step_of_regRead hp, hostRead_of_not_mem_readTable hm]

/-! ### The STATUS word (rule R24) -/

/-- The fields of the STATUS word, cut out of it again. -/
theorem status_fields (st : Status) :
    st.toWord.extractLsb' 0 3 = st.err.bits ∧ st.toWord.extractLsb' 3 3 = st.stage.bits ∧
      st.toWord.extractLsb' 6 2 = st.view.bits ∧ st.toWord.extractLsb' 8 1 = st.l3tag.bits ∧
      st.toWord.extractLsb' 9 2 = st.l4tag.bits ∧ st.toWord.extractLsb' 14 18 = 0#18 := by
  simp (disch := decide) only [Status.toWord, BitVec.extractLsb'_append_eq_of_add_le,
    BitVec.extractLsb'_append_eq_of_le, Nat.reduceSub, BitVec.extractLsb'_eq_self, and_self]

theorem status_flags (st : Status) :
    st.toWord.getLsbD 11 = st.csumV ∧ st.toWord.getLsbD 12 = st.vfyV ∧ st.toWord.getLsbD 13 = st.vfy := by
  simp only [Status.toWord, BitVec.getLsbD_append, BitVec.getLsbD_ofBool]
  exact ⟨rfl, rfl, rfl⟩

/-- Settles O39: each field cut out of the word is its encoding. -/
theorem statusWordFields : Obligations.StatusWordFields := by
  intro st
  obtain ⟨herr, hstage, hview, hl3, hl4, hreserved⟩ := status_fields st
  obtain ⟨hcsumV, hvfyV, hvfy⟩ := status_flags st
  rw [herr, hstage, hview, hl3, hl4]
  refine ⟨?_, ?_, ?_, ?_, ?_, hcsumV, hvfyV, hvfy, hreserved⟩
  · cases st.err <;> rfl
  · cases st.stage <;> rfl
  · cases st.view <;> rfl
  · cases st.l3tag <;> rfl
  · cases st.l4tag <;> rfl

end Sys2Proof.Machine

/-! ## Reset and the idle block (spec/10_state.md rule R45, spec/60_exceptions.md rule R231, spec/70_reset_and_hazards.md
rules R240, R242) -/

namespace Sys2Proof.Machine

theorem step_of_idle {s : State} (h : s.pending = []) : step s = .next s := by
  rw [step, State.transact, h]

/-- Settles O40: with nothing pending the step answers its own state. -/
theorem idleBlockHoldsItsState : Obligations.IdleBlockHoldsItsState := fun _ => step_of_idle

theorem Status.reset_toWord : Status.reset.toWord = 0#32 := by decide

theorem Slice.zero_toWord : Slice.zero.toWord = 0#32 := by decide

theorem value_resetWith (c : Config) (k : Nat) (r : RegName) : r.value (State.resetWith c k) = 0#32 := by
  cases r with
  | STATUS => exact Status.reset_toWord
  | OP_SEG | IP4_OPT | TCP_OPT | PAYLOAD => exact Slice.zero_toWord
  | _ => rfl

theorem hostRead_resetWith (c : Config) (k : Nat) (n : RegNum) : (State.resetWith c k).hostRead n = 0#32 := by
  cases hn : RegName.ofNum n with
  | none => rw [State.hostRead, hn]
  | some r => rw [← num_of_ofNum hn, hostRead_num, value_resetWith]

/-- Settles O51: every field of the reset table is 0, no byte of FB is written, and nothing is pending. -/
theorem resetLeavesTheResetTable : Obligations.ResetLeavesTheResetTable := by
  rintro c k r rfl
  exact ⟨Status.reset_toWord, rfl, rfl, rfl, rfl, rfl, Slice.zero_toWord, rfl, hostRead_resetWith c k,
    fun _ => rfl, step_of_idle rfl⟩

/-- Settles O52: the step serves the pulse, which leaves the reset table over a fresh buffer. -/
theorem resetPulseGivesTheResetTable : Obligations.ResetPulseGivesTheResetTable := by
  intro s r rest hp h
  rw [step_cons hp] at h
  cases h
  exact ⟨rfl, rfl, fun _ => rfl, rfl, rfl⟩

/-- Settles O53: FLEN = 0 ends inside the first Ethernet field, there is no view, and OP_PROTO = 0 is unsupported. -/
theorem commandsAfterReset : Obligations.CommandsAfterReset := by
  rintro c k m r rfl
  obtain ⟨hparse, hparsec⟩ := ethernetTruncation { State.resetWith c k with fb := m } 0 6 (by decide) (Nat.zero_le _)
    (by decide : 0 < 6)
  have hproto : Unsupported (0#8) := by decide
  exact ⟨hparse, hparsec, (cksumByCases _).1 nofun, (verifyByCases _).1 nofun, fun _ _ => exec_patch_of_view_ne nofun,
    (csumrByCases _).1 hproto, (verifyrByCases _).1 hproto⟩

end Sys2Proof.Machine

/-! ## Instances (spec/20_memory.md rule R79) -/

namespace Sys2Proof.Machine

/-- What `stepInstance` does: the block's own state makes the step and is put back in its place. -/
theorem stepInstance_eq_next_iff {n : Nat} {j : Fin n} {ms ms' : Vector State n} :
    stepInstance j ms = .next ms' ↔ ∃ t, step (ms.get j) = .next t ∧ ms' = ms.set j t := by
  obtain ⟨t, ht⟩ := step_next (ms.get j)
  simp only [stepInstance, ht, Host.Outcome.next.injEq, exists_eq_left', eq_comm]

theorem get_set_of_ne {n : Nat} {j k : Fin n} (h : k ≠ j) (ms : Vector State n) (t : State) :
    (ms.set j t).get k = ms.get k := by
  rw [Vector.get_eq_getElem, Vector.get_eq_getElem]
  exact Vector.getElem_set_ne j.isLt k.isLt (Fin.val_ne_of_ne h.symm)

/-- Settles O50: a step reads and replaces one component, and replacements of two components commute. -/
theorem instancesAreIndependent : Obligations.InstancesAreIndependent := by
  intro n j k ms ms' h
  obtain ⟨t, ht, rfl⟩ := stepInstance_eq_next_iff.1 h
  refine ⟨fun hk => get_set_of_ne hk ms t, fun hk ms'' h' => ?_⟩
  obtain ⟨u, hu, rfl⟩ := stepInstance_eq_next_iff.1 h'
  rw [get_set_of_ne hk] at hu
  refine ⟨ms.set k u, stepInstance_eq_next_iff.2 ⟨u, hu, rfl⟩, stepInstance_eq_next_iff.2 ⟨t, ?_, ?_⟩⟩
  · rwa [get_set_of_ne hk.symm]
  · exact Vector.set_comm t u (Fin.val_ne_of_ne hk.symm)

end Sys2Proof.Machine

/-! ## The frame line (spec/30_encoding.md rule R100) -/

namespace Sys2Proof.Machine

namespace AsmLine

theorem issue_append {xs ys : List HostInput} {s t u : State} {rs rs' : List HostReply}
    (hx : issue xs s = some (t, rs)) (hy : issue ys t = some (u, rs')) :
    issue (xs ++ ys) s = some (u, rs ++ rs') := by
  induction xs generalizing s rs with
  | nil => cases hx; exact hy
  | cons input xs ih =>
    obtain ⟨v, hv⟩ := step_next { s with pending := [input] }
    cases hi : issue xs v with
    | none => simp [issue, hv, hi] at hx
    | some p =>
      simp only [issue, hv, hi] at hx
      cases hx
      exact issue_cons hv (ih hi)

/-- One host write below FB_BYTES stores its byte (rule R69). -/
theorem step_fbWrite {s : State} {a : Half} (b : Byte) (ha : a.toNat < s.cfg.fbBytes) :
    ∃ t, step { s with pending := [.fbWrite a b] } = .next t ∧ t.cfg = s.cfg ∧
      ∀ x, t.fb.read x = if x = a.toNat then b else s.fb.read x :=
  ⟨_, (hostBufferTransactions _ a b []).2.1 rfl ha, rfl, fun x => s.fb.read_write a.toNat x b⟩

/-- Host writes at rising addresses store their bytes there and leave every other byte. -/
theorem issue_writes (bs : List Byte) (a : Half) (s : State) (hmax : s.cfg.fbBytes ≤ 65535)
    (h : a.toNat + bs.length ≤ s.cfg.fbBytes) :
    ∃ t rs, issue (writes a bs) s = some (t, rs) ∧ t.cfg = s.cfg ∧
      (∀ (k : Nat) (hk : k < bs.length), t.fb.read (a.toNat + k) = bs[k]) ∧
      (∀ x, x < a.toNat ∨ a.toNat + bs.length ≤ x → t.fb.read x = s.fb.read x) := by
  induction bs generalizing a s with
  | nil => exact ⟨s, [], rfl, rfl, nofun, fun _ _ => rfl⟩
  | cons b bs ih =>
    rw [List.length_cons] at h
    have hnext : (a + 1#16).toNat = a.toNat + 1 := by
      rw [BitVec.toNat_add]
      exact Nat.mod_eq_of_lt (show a.toNat + 1 < 65536 by omega)
    obtain ⟨t, ht, hcfg, hread⟩ := step_fbWrite (s := s) b (show a.toNat < s.cfg.fbBytes by omega)
    obtain ⟨u, rs, hu, hcfg', hin, hout⟩ := ih (a + 1#16) t (by rwa [hcfg]) (by rw [hnext, hcfg]; omega)
    rw [hnext] at hin hout
    refine ⟨u, _, issue_cons ht hu, hcfg'.trans hcfg, fun k hk => ?_, fun x hx => ?_⟩
    · cases k with
      | zero => rw [Nat.add_zero, hout _ (.inl (Nat.lt_succ_self _)), hread, if_pos rfl, List.getElem_cons_zero]
      | succ k =>
        rw [List.getElem_cons_succ, ← hin k (Nat.lt_of_succ_lt_succ hk), Nat.add_right_comm, Nat.add_assoc]
    · rw [List.length_cons] at hx
      rw [hout x (by omega), hread, if_neg (by omega)]

/-- A host write of a FLEN within the buffer (rule R25). -/
theorem step_flenWrite {s : State} {n : Nat} (hn : n ≤ s.cfg.fbBytes) (hmax : s.cfg.fbBytes ≤ 65535) :
    ∃ t, step { s with pending := [.write 0x02#6 (BitVec.ofNat 32 n)] } = .next t ∧ t.flen.toNat = n ∧
      t.status.view = .none ∧ t.fb = s.fb := by
  refine ⟨_, (hostRegisterWrites _ _ _ [] rfl).1 rfl, ?_, rfl, rfl⟩
  show (min (n % 2 ^ 32 % 65536) s.cfg.fbBytes) % 2 ^ 16 = n
  omega

end AsmLine

/-- Settles O58: the bytes are written one by one from address 0, then FLEN, which drops the view. -/
theorem frameLineLoadsTheFrame : Obligations.FrameLineLoadsTheFrame := by
  rintro s bs ⟨-, hmax⟩ hlen
  obtain ⟨t, rs, ht, hcfg, hin, hout⟩ := AsmLine.issue_writes bs 0#16 s hmax ((Nat.zero_add _).trans_le hlen)
  obtain ⟨u, hu, hflen, hview, hfb⟩ := AsmLine.step_flenWrite (s := t) (hcfg ▸ hlen) (hcfg ▸ hmax)
  refine ⟨u, AsmLine.run_of_issue (l := .frame bs) rfl (AsmLine.issue_append ht (AsmLine.issue_single hu)), hflen,
    hview, fun a ha => ?_, fun a ha => ?_⟩
  · rw [hfb, ← hin a ha, BitVec.toNat_zero, Nat.zero_add]
  · rw [hfb, hout a (.inr ((Nat.zero_add _).trans_le ha))]

end Sys2Proof.Machine

/-! ## Which command ends with which code and stage (spec/60_exceptions.md rule R232)

One way the table holds by the cases of `CommandEffect`. The other way each entry needs a run: for the parses a frame
cut at the right byte, for the other commands a view or operand registers that miss the condition tested. -/

namespace Sys2Proof.Machine

/-- Some run of the command ends with the code and the stage. -/
def Reaches (i : Instr) (e : ErrCode × Stage) : Prop :=
  ∃ s t, exec i s = .next t ∧ (t.status.err, t.status.stage) = e

/-! ### Runs of the parses -/

/-- A frame of `n` bytes of ethertype IPv4 with bytes 14 (version and header_length) and 23 (protocol) given, and
byte 46, a TCP header_length behind a header of 20 bytes, 0. -/
def ipv4Frame (n : Half) (b14 b23 : Byte) : State :=
  { State.reset with
    flen := n
    fb := { cells := [(12, 0x08#8), (13, 0x00#8), (14, b14), (23, b23), (46, 0x00#8)], block := 0, epoch := 0 } }

theorem ipv4Frame_ipHlen (n : Half) (p : Byte) : Layout.ipHlen (ipv4Frame n 0x45#8 p).fb = 20 := by
  simp [Layout.ipHlen, ipv4Frame, Memory.read, Memory.lookup]

theorem ipv4Frame_isIpv4With (n : Half) (b14 p : Byte) : Layout.isIpv4With (ipv4Frame n b14 p).fb p := by
  simp [Layout.isIpv4With, Layout.etype, Layout.u16, Layout.proto, ipv4Frame, Memory.read, Memory.lookup]

theorem ipv4Frame_fits (p : Byte) {n : Half} (hn : 34 ≤ n.toNat) : Layout.parsecFits (ipv4Frame n 0x45#8 p) := by
  refine ⟨(by decide : 14 ≤ 34).trans hn, fun _ => ?_⟩
  rw [ipv4Frame_ipHlen]
  exact ⟨hn, Nat.le_refl _, hn⟩

theorem parsec_reaches : ∀ e ∈ endings .parsec, Reaches .parsec e := by
  simp only [endings, List.forall_mem_cons, List.not_mem_nil, false_implies, implies_true, and_true]
  refine ⟨⟨_, _, exec_parsec_of_fits (ipv4Frame_fits (n := 34#16) 0#8 (by decide)), rfl⟩, ?eth, ?ipv4, ?malformed⟩
  case eth => exact ⟨_, _, (ethernetTruncation (ipv4Frame 0#16 0#8 0#8) 0 6 (by decide) (by decide) (by decide)).2, rfl⟩
  case ipv4 =>
    obtain ⟨hfixed, -⟩ := ipv4HeaderErrors (ipv4Frame 14#16 0#8 0#8) (by decide) (by decide)
    exact ⟨_, _, (hfixed 0 1 (by decide) (by decide) (by decide)).2, rfl⟩
  case malformed =>
    obtain ⟨-, hmalformed, -⟩ := ipv4HeaderErrors (ipv4Frame 34#16 0#8 0#8) (by decide) (by decide)
    exact ⟨_, _, (hmalformed (by decide) (by decide)).2, rfl⟩

theorem parse_reaches : ∀ e ∈ endings .parse, Reaches .parse e := by
  simp only [endings, List.forall_mem_cons, List.not_mem_nil, false_implies, implies_true, and_true]
  have htcp (n : Half) (hn : 34 ≤ n.toNat) := tcpHeaderErrors (ipv4Frame n 0x45#8 6#8) 34 (ipv4Frame_fits 6#8 hn)
    (ipv4Frame_isIpv4With n 0x45#8 6#8) (by rw [ipv4Frame_ipHlen])
  have hudp := udpHeaderErrors (ipv4Frame 34#16 0x45#8 17#8) 34 (ipv4Frame_fits 17#8 (by decide))
    (ipv4Frame_isIpv4With 34#16 0x45#8 17#8) (by rw [ipv4Frame_ipHlen])
  refine ⟨?ok, ?eth, ?ipv4, ?tcp, ?udp, ?ipv4Malformed, ?tcpMalformed⟩
  case ok =>
    have hfits : Layout.parseFits (ipv4Frame 34#16 0x45#8 0#8) := ⟨ipv4Frame_fits 0#8 (by decide), by decide, by decide⟩
    exact ⟨_, _, exec_parse_of_fits hfits, rfl⟩
  case eth => exact ⟨_, _, (ethernetTruncation (ipv4Frame 0#16 0#8 0#8) 0 6 (by decide) (by decide) (by decide)).1, rfl⟩
  case ipv4 =>
    obtain ⟨hfixed, -⟩ := ipv4HeaderErrors (ipv4Frame 14#16 0#8 0#8) (by decide) (by decide)
    exact ⟨_, _, (hfixed 0 1 (by decide) (by decide) (by decide)).1, rfl⟩
  case tcp => exact ⟨_, _, (htcp 34#16 (by decide)).1 0 2 (by decide) (by decide) (by decide), rfl⟩
  case udp => exact ⟨_, _, hudp 0 2 (by decide) (by decide) (by decide), rfl⟩
  case ipv4Malformed =>
    obtain ⟨-, hmalformed, -⟩ := ipv4HeaderErrors (ipv4Frame 34#16 0#8 0#8) (by decide) (by decide)
    exact ⟨_, _, (hmalformed (by decide) (by decide)).1, rfl⟩
  case tcpMalformed => exact ⟨_, _, (htcp 54#16 (by decide)).2.1 (by decide) (by decide), rfl⟩

/-! ### Runs of the checksum commands and of PATCH -/

/-- A state that holds an IPv4 ChecksumFrame of the protocol, with a segment of `len` bytes. -/
def heldSegment (p : Byte) (len : Half) : State :=
  { State.reset with
    status := { Status.reset with view := .checksum, l3tag := .ipv4 }
    ip4 := { Ip4Regs.zero with proto := p }
    payload := { off := 0#16, len := len } }

/-- A state whose operand registers name a segment of `len` bytes of the protocol, in a frame of 18 bytes. -/
def operandSegment (p : Byte) (len : Half) : State :=
  { State.reset with flen := 18#16, opProto := p, opSeg := { off := 0#16, len := len } }

theorem cksum_reaches : ∀ e ∈ endings .cksum, Reaches .cksum e := by
  simp only [endings, List.forall_mem_cons, List.not_mem_nil, false_implies, implies_true, and_true]
  refine ⟨?ok, ?short, ?unsupported, ?noView⟩
  case ok => exact ⟨heldSegment 6#8 18#16, _, (cksumByCases _).2.2.2 16 rfl rfl (by decide) (by decide), rfl⟩
  case short => exact ⟨heldSegment 6#8 0#16, _, (cksumByCases _).2.2.1 16 rfl rfl (by decide) (by decide), rfl⟩
  case unsupported => exact ⟨heldSegment 0#8 0#16, _, (cksumByCases _).2.1 rfl (.inr (by decide)), rfl⟩
  case noView => exact ⟨State.reset, _, (cksumByCases _).1 nofun, rfl⟩

theorem verify_reaches : ∀ e ∈ endings .verify, Reaches .verify e := by
  simp only [endings, List.forall_mem_cons, List.not_mem_nil, false_implies, implies_true, and_true]
  refine ⟨?ok, ?unsupported, ?noView⟩
  case ok => exact ⟨heldSegment 6#8 0#16, _, (verifyByCases _).2.2 rfl rfl (.inl rfl), rfl⟩
  case unsupported => exact ⟨heldSegment 0#8 0#16, _, (verifyByCases _).2.1 rfl (.inr (by decide)), rfl⟩
  case noView => exact ⟨State.reset, _, (verifyByCases _).1 nofun, rfl⟩

theorem csumr_reaches : ∀ e ∈ endings .csumr, Reaches .csumr e := by
  simp only [endings, List.forall_mem_cons, List.not_mem_nil, false_implies, implies_true, and_true]
  refine ⟨?ok, ?short, ?unsupported⟩
  case ok =>
    exact ⟨operandSegment 6#8 18#16, _, (csumrByCases _).2.2.2 16 (by decide) (by decide) (by decide), rfl⟩
  case short => exact ⟨operandSegment 6#8 19#16, _, (csumrByCases _).2.1 (by decide) (by decide), rfl⟩
  case unsupported => exact ⟨operandSegment 0#8 0#16, _, (csumrByCases _).1 (by decide), rfl⟩

theorem verifyr_reaches : ∀ e ∈ endings .verifyr, Reaches .verifyr e := by
  simp only [endings, List.forall_mem_cons, List.not_mem_nil, false_implies, implies_true, and_true]
  refine ⟨?ok, ?outside, ?unsupported⟩
  case ok => exact ⟨operandSegment 6#8 18#16, _, (verifyrByCases _).2.2 (by decide) (by decide), rfl⟩
  case outside => exact ⟨operandSegment 6#8 19#16, _, (verifyrByCases _).2.1 (by decide) (by decide), rfl⟩
  case unsupported => exact ⟨operandSegment 0#8 0#16, _, (verifyrByCases _).1 (by decide), rfl⟩

theorem patch_reaches (c l : Bool) : ∀ e ∈ endings (.patch c l), Reaches (.patch c l) e := by
  have noView : Reaches (.patch c l) (.noView, .none) := ⟨State.reset, _, exec_patch_of_view_ne nofun, rfl⟩
  have unsupported (hflag : c = true ∨ l = true) : Reaches (.patch c l) (.unsupportedProtocol, .none) :=
    ⟨{ State.reset with status := { Status.reset with view := .checksum } }, _,
      exec_patch_of_l3tag_ne rfl hflag nofun, rfl⟩
  cases c with
  | true =>
    simp only [endings, List.forall_mem_cons, List.not_mem_nil, false_implies, implies_true, and_true]
    have ok := exec_patch_checksum (s := heldSegment 6#8 18#16) (off := 16) l rfl rfl (by decide) (by decide)
    have short := exec_patch_of_plan_error (s := heldSegment 6#8 0#16) (l := l) rfl (.inl rfl) rfl
      (patchPlan_short (off := 16) (by decide) (by decide))
    exact ⟨⟨_, _, ok, rfl⟩, ⟨_, _, short, rfl⟩, unsupported (.inl rfl), noView⟩
  | false =>
    cases l with
    | true =>
      simp only [endings, List.forall_mem_cons, List.not_mem_nil, false_implies, implies_true, and_true]
      exact ⟨⟨heldSegment 0#8 0#16, _, exec_patch_length rfl rfl, rfl⟩, unsupported (.inr rfl), noView⟩
    | false =>
      simp only [endings, List.forall_mem_cons, List.not_mem_nil, false_implies, implies_true, and_true]
      exact ⟨⟨heldSegment 0#8 0#16, _, exec_patch_unflagged rfl, rfl⟩, noView⟩

/-- Every entry of the table is the ending of some run. -/
theorem endings_reached (i : Instr) : ∀ e ∈ endings i, Reaches i e := by
  cases i with
  | nop => exact nofun
  | clr => exact List.forall_mem_singleton.2 ⟨State.reset, _, rfl, rfl⟩
  | parse => exact parse_reaches
  | parsec => exact parsec_reaches
  | cksum => exact cksum_reaches
  | verify => exact verify_reaches
  | csumr => exact csumr_reaches
  | verifyr => exact verifyr_reaches
  | patch c l => exact patch_reaches c l

/-- An unsupported protocol gives a verify the verdict false (rules R179, R181). -/
theorem verdict_of_unsupported {i : Instr} {s t : State} (hi : i = .verify ∨ i = .verifyr) (h : exec i s = .next t)
    (herr : t.status.err = .unsupportedProtocol) : t.status.vfyV = true ∧ t.status.vfy = false := by
  rcases hi with rfl | rfl
  · rcases exec_verify_cases h with ⟨-, rfl⟩ | ⟨-, -, rfl⟩ | ⟨-, -, rfl⟩
    · cases herr
    · exact ⟨rfl, rfl⟩
    · cases herr
  · rcases exec_verifyr_cases h with ⟨-, rfl⟩ | ⟨-, -, rfl⟩ | ⟨-, -, rfl⟩
    · exact ⟨rfl, rfl⟩
    · cases herr
    · cases herr

/-- Settles O42: the cases of a command, the runs above, NOP's own state, and the two verifies. -/
theorem endingsOfEveryCommand : Obligations.EndingsOfEveryCommand := by
  refine ⟨fun i s t h => (exec_effect h).ending, endings_reached, ?nop, fun i s t => verdict_of_unsupported⟩
  case nop =>
    intro s t h
    cases h
    exact ⟨rfl, rfl⟩

end Sys2Proof.Machine
